-- ==== Sys2Proof/Word.lean ====
section
/-! DEFINITION. The word types of the mbslave RTU slave block: the unsigned widths that R10 names, and the sparse array of bank cells. -/

namespace Sys2Proof

/-- A byte on the wire: `u8` of R10. -/
abbrev Byte := BitVec 8

/-- A 16-bit word, `u16` of R10: an address, a quantity, a register value or a CRC. -/
abbrev Word := BitVec 16

/-- A sparse array of bank cells of `w` bits: pairs of a cell address and the cell's value. An address that no pair lists
holds 0, the reset value of every cell (R40, R341). The cell is the unit of addressing (R60). The canonical form (addresses
strictly rising, no pair with the value 0) is `Sys2Proof.Machine.cellsWf`. -/
abbrev Cells (w : Nat) := List (Nat × BitVec w)

/-- The opaque error value `e` of a read or write error: the block passes it through uninterpreted (R305). -/
abbrev ErrVal := Nat

end Sys2Proof
end

