-- ==== Sys2Proof/Config.lean ====
section
/-! DEFINITION. What an implementation or the platform fixes: the four bank names, the configuration registers CFG0 to CFG9 (R20 to R28) and the structural parameters (R9). -/

namespace Sys2Proof

/-- The four address spaces, in the order of R60 (0 `DI`, 1 `COIL`, 2 `IR`, 3 `HR`). -/
inductive BankId where
  /-- Discrete inputs, 1 bit a cell. -/
  | di
  /-- Coils, 1 bit a cell. -/
  | coil
  /-- Input registers, 16 bits a cell. -/
  | ir
  /-- Holding registers, 16 bits a cell. -/
  | hr
  deriving DecidableEq, Repr

/-- `CFG9 SERIAL_MODE` (R26): fields the block passes to the serial port collaborator and reads nowhere else. The spec
gives no encodings (N10), so each field is an uninterpreted number. -/
structure SerialMode where
  dataBits : Nat
  parity : Nat
  stopBits : Nat
  portId : Nat
  deriving DecidableEq, Repr

/-- The configuration registers CFG0 to CFG9 (R20 to R26). They are static between resets (R27). -/
structure Cfg where
  /-- CFG0 `SLAVE_ID` (R20). -/
  slaveId : Byte
  /-- CFG1 `BAUD`, an s32 (R21). -/
  baud : BitVec 32
  /-- CFG2 `SILENT_OVR`, u32 in µs, 0 for not set (R22). -/
  silentOvr : BitVec 32
  /-- CFG3 `CAP[DI]` (R23). -/
  capDi : BitVec 17
  /-- CFG4 `CAP[COIL]` (R23). -/
  capCoil : BitVec 17
  /-- CFG5 `CAP[IR]` (R23). -/
  capIr : BitVec 17
  /-- CFG6 `CAP[HR]` (R23). -/
  capHr : BitVec 17
  /-- CFG7 `HANDLER_EN`, one enable bit for each standard function code (R24). -/
  handlerEn : BitVec 8
  /-- CFG8 `CB_EN[DI]`: the addresses whose bit is 1 (R25 gives the layout no meaning). -/
  cbDi : List Nat
  /-- CFG8 `CB_EN[COIL]`. -/
  cbCoil : List Nat
  /-- CFG8 `CB_EN[IR]`. -/
  cbIr : List Nat
  /-- CFG8 `CB_EN[HR]`. -/
  cbHr : List Nat
  /-- CFG9 `SERIAL_MODE` (R26). -/
  serialMode : SerialMode
  deriving DecidableEq, Repr

/-- The structural parameters of R9 that a rule reads and whose values are OPEN or a default. `none` stands for ∞. -/
structure Params where
  /-- `RX_FIFO_DEPTH`, 1 to ∞, OPEN (R9). -/
  rxFifoDepth : Option Nat
  /-- `CB_DEPTH`, 1 to ∞, ∞ for this hardware (R9). -/
  cbDepth : Option Nat
  /-- `N_HOST`, 0 to ∞, OPEN (R9): the host agents are numbered from 0. -/
  nHost : Option Nat
  deriving DecidableEq, Repr

/-- `ACC_DEPTH`: the bytes the accumulation buffer stores, 265 for this hardware (R9). -/
def Config.accDepth : Nat := 265

/-- The broadcast slave id (R15, R105). -/
def Config.broadcastId : Byte := 255

/-- The configuration the model's reset state carries. R341 gives the defaults of CFG2 to CFG8. DESIGN CHOICE (log entry 1),
unsafe: `SLAVE_ID` 1, `BAUD` 0 and an all-zero `SERIAL_MODE`, which R20, R21 and R26 leave to the platform. -/
def Config.resetCfg : Cfg where
  slaveId := 1
  baud := 0
  silentOvr := 0
  capDi := 65536
  capCoil := 65536
  capIr := 65536
  capHr := 65536
  handlerEn := 0xFF
  cbDi := []
  cbCoil := []
  cbIr := []
  cbHr := []
  serialMode := ⟨0, 0, 0, 0⟩

/-- The parameters the model's reset state carries: `CB_DEPTH` ∞ (R9). DESIGN CHOICE (log entry 2), unsafe: `RX_FIFO_DEPTH` ∞
and `N_HOST` ∞, which R9 leaves OPEN. -/
def Config.resetParams : Params where
  rxFifoDepth := none
  cbDepth := none
  nHost := none

/-- The slave id of the frame that stands for a row of the opcode table, whose numbered bits begin at frame byte 1.
DESIGN CHOICE (log entry 3): the id of the reset configuration. -/
def Config.tableSlaveId : Byte := 1

end Sys2Proof
end

