-- ==== Sys2Proof/Syntax.lean ====
section
/-! DEFINITION. The instructions: one constructor for each row of spec/opcode_table.json (function codes of R110, `ILLEGAL_FN` of R112, host port operations of R283 to R290), and the two shapes in which they reach the block. -/

namespace Sys2Proof

/-- The operations of the block. A request's byte count `bc` is the length of its data (R94), and its CRC is the one R96
demands, so neither is an operand. -/
inductive Instr where
  /-- `RD_COILS id, addr, qty`: function code 1 (R181). -/
  | rdCoils (id : Byte) (addr qty : Word)
  /-- `RD_DISCRETE id, addr, qty`: function code 2 (R182). -/
  | rdDiscrete (id : Byte) (addr qty : Word)
  /-- `RD_HOLDING id, addr, qty`: function code 3 (R183). -/
  | rdHolding (id : Byte) (addr qty : Word)
  /-- `RD_INPUT id, addr, qty`: function code 4 (R184). -/
  | rdInput (id : Byte) (addr qty : Word)
  /-- `WR_COIL id, addr, arg`: function code 5, `arg` the raw data word (R200, R114). -/
  | wrCoil (id : Byte) (addr arg : Word)
  /-- `WR_REG id, addr, arg`: function code 6 (R201). -/
  | wrReg (id : Byte) (addr arg : Word)
  /-- `WR_COILS id, addr, qty, bc, data`: function code 15 (R202). -/
  | wrCoils (id : Byte) (addr qty : Word) (data : List Byte)
  /-- `WR_REGS id, addr, qty, bc, data`: function code 16 (R203). -/
  | wrRegs (id : Byte) (addr qty : Word) (data : List Byte)
  /-- `ILLEGAL_FN id, func`: any other function byte (R112, R164). -/
  | illegalFn (id func : Byte)
  /-- `GET_DI addr`: op 0b000 (R283). -/
  | getDi (addr : Word)
  /-- `GET_COIL addr`: op 0b001 (R284). -/
  | getCoil (addr : Word)
  /-- `GET_IR addr`: op 0b010 (R285). -/
  | getIr (addr : Word)
  /-- `GET_HR addr`: op 0b011 (R286). -/
  | getHr (addr : Word)
  /-- `SET_DI addr, value`: op 0b100 (R287). -/
  | setDi (addr value : Word)
  /-- `SET_COIL addr, value`: op 0b101 (R288). -/
  | setCoil (addr value : Word)
  /-- `SET_IR addr, value`: op 0b110 (R289). -/
  | setIr (addr value : Word)
  /-- `SET_HR addr, value`: op 0b111 (R290). -/
  | setHr (addr value : Word)
  deriving DecidableEq, Repr

/-- How an operation reaches the block. -/
inductive Code where
  /-- A frame of the wire, first byte first (R90). -/
  | frame (bytes : List Byte)
  /-- A host port request: the fields of `host_req` (R280). -/
  | host (op : BitVec 3) (addr value : Word)
  deriving DecidableEq, Repr

/-- A taken frame `(f, n, ovf)` (R247): the stored bytes, the true length and the overflow flag. -/
structure Frame where
  bytes : List Byte
  len : Nat
  ovf : Bool
  deriving DecidableEq, Repr

/-- `REQ.result` (R35). -/
inductive ReqResult where
  | ok
  | damaged
  | unknownFunction
  | crcMismatch
  deriving DecidableEq, Repr

/-- The request registers `REQ` (R35). -/
structure Request where
  id : Byte
  func : Byte
  addr : Word
  qty : Word
  bc : Byte
  data : List Byte
  crc : Word
  result : ReqResult
  deriving DecidableEq, Repr

/-- The frame format a function code selects (R92, R93, R94). -/
inductive Format where
  /-- Read request, function codes 1 to 4. -/
  | rd
  /-- Write-single request, function codes 5 and 6. -/
  | ws
  /-- Write-multiple request, function codes 15 and 16. -/
  | wm
  /-- No format: an illegal function code (R112). -/
  | unknown
  deriving DecidableEq, Repr

/-- What the decoder makes of a code: an operation, or a rejection by name (the frame errors that R163 stops). -/
inductive Decoded where
  | instr (i : Instr)
  /-- The frame's length is not the one its function code fixes, or it has no function byte (R141, R143 to R145). -/
  | damaged
  /-- The trailing CRC is not that of the bytes before it (R147). -/
  | crcMismatch
  deriving DecidableEq, Repr

end Sys2Proof
end

