-- ==== Sys2Proof/WellFormed.lean ====
section
/-! DEFINITION. Which terms of Instr stand for a request: the bounds that the encoding puts on the operands. -/

namespace Sys2Proof

/-- The eight function codes the block decodes (R110). -/
def standardCodes : List Byte := [1, 2, 3, 4, 5, 6, 15, 16]

/-- The operands fit the encoding: the data of a write-multiple request is counted by one byte (R94), and an illegal
function is none of the eight codes (R112). Every other operand fills its field. -/
def Instr.wf : Instr → Bool
  | .rdCoils _ _ _ => true
  | .rdDiscrete _ _ _ => true
  | .rdHolding _ _ _ => true
  | .rdInput _ _ _ => true
  | .wrCoil _ _ _ => true
  | .wrReg _ _ _ => true
  | .wrCoils _ _ _ data => decide (data.length ≤ 255)
  | .wrRegs _ _ _ data => decide (data.length ≤ 255)
  | .illegalFn _ func => !standardCodes.contains func
  | .getDi _ => true
  | .getCoil _ => true
  | .getIr _ => true
  | .getHr _ => true
  | .setDi _ _ => true
  | .setCoil _ _ => true
  | .setIr _ _ => true
  | .setHr _ _ => true

end Sys2Proof
end

