-- ==== Sys2Proof/Decode.lean ====
section
/-! DEFINITION. The request decoder (41_request_decode.md), the CRC engine (40_crc.md), the byte order of the wire (R66), the encoder, and the words of the opcode table. -/

namespace Sys2Proof

/-! ## Byte order (R11, R66) -/

/-- `be16(hi, lo) = hi * 256 + lo` (R11). -/
def be16 (hi lo : Byte) : Word := hi ++ lo

/-- `v[15:8]`. -/
def hiByte (v : Word) : Byte := v.extractLsb' 8 8

/-- `v[7:0]`. -/
def loByte (v : Word) : Byte := v.extractLsb' 0 8

/-- `BE16(v)`: the high byte first (R11). -/
def beBytes (v : Word) : List Byte := [hiByte v, loByte v]

/-- `LE16(v)`: the low byte first (R11). -/
def leBytes (v : Word) : List Byte := [loByte v, hiByte v]

/-! ## The CRC engine (R130) -/

/-- One of the eight shifts of R130: polynomial 0xA001, least significant bit first. -/
def crcBit (c : Word) : Word :=
  if c.getLsbD 0 then (c >>> 1) ^^^ 0xA001#16 else c >>> 1

/-- One byte of R130: it enters the low 8 bits, then eight shifts. -/
def crcByte (c : Word) (b : Byte) : Word :=
  Nat.repeat crcBit 8 (c ^^^ b.setWidth 16)

/-- `CRC16(s)` (R130): seed 0xFFFF, no final exclusive-or. -/
def crc16 (s : List Byte) : Word := s.foldl crcByte 0xFFFF#16

/-- `p ++ LE16(CRC16(p))`: the trailer of every frame and reply (R90, R133, R232). -/
def withCrc (p : List Byte) : List Byte := p ++ leBytes (crc16 p)

/-! ## The request decoder -/

/-- The format a function code selects, from byte 1 alone (R142, R110). -/
def formatOf (func : Byte) : Format :=
  match func.toNat with
  | 1 => .rd
  | 2 => .rd
  | 3 => .rd
  | 4 => .rd
  | 5 => .ws
  | 6 => .ws
  | 15 => .wm
  | 16 => .wm
  | _ => .unknown

/-- Byte `i` of a frame. Only stored bytes are ever needed (R149). -/
def frameByte (f : Frame) (i : Nat) : Byte := f.bytes.getD i 0

/-- The request registers with every field zero, as `Decode` starts (R140) and as reset leaves them (R341). -/
def emptyRequest : Request where
  id := 0
  func := 0
  addr := 0
  qty := 0
  bc := 0
  data := []
  crc := 0
  result := .ok

/-- The last step of `Decode`: read the trailing CRC and compare it with that of the bytes before it (R96, R147). -/
def checkCrc (f : Frame) (r : Request) : Request :=
  let crc := be16 (frameByte f (f.len - 1)) (frameByte f (f.len - 2))
  { r with
    crc := crc
    result := if crc16 (f.bytes.take (f.len - 2)) = crc then .ok else .crcMismatch }

/-- Format RD: exactly 8 bytes (R143, R92). -/
def decodeRd (f : Frame) (r : Request) : Request :=
  if f.len ≠ 8 then { r with result := .damaged }
  else checkCrc f
    { r with
      addr := be16 (frameByte f 2) (frameByte f 3)
      qty := be16 (frameByte f 4) (frameByte f 5) }

/-- Format WS: exactly 8 bytes, quantity 1, the two data bytes kept raw (R144, R93). -/
def decodeWs (f : Frame) (r : Request) : Request :=
  if f.len ≠ 8 then { r with result := .damaged }
  else checkCrc f
    { r with
      addr := be16 (frameByte f 2) (frameByte f 3)
      qty := 1
      data := [frameByte f 4, frameByte f 5] }

/-- Format WM: at least 7 bytes to read the byte count, then exactly `9 + bc` (R145, R94). -/
def decodeWm (f : Frame) (r : Request) : Request :=
  if f.len < 7 then { r with result := .damaged }
  else
    let r' : Request :=
      { r with
        addr := be16 (frameByte f 2) (frameByte f 3)
        qty := be16 (frameByte f 4) (frameByte f 5)
        bc := frameByte f 6 }
    if f.len ≠ 9 + r'.bc.toNat then { r' with result := .damaged }
    else checkCrc f { r' with data := (f.bytes.drop 7).take r'.bc.toNat }

/-- `Decode(f, n)` (R140): the request registers a frame leaves. -/
def decodeRequest (f : Frame) : Request :=
  if f.len < 2 then
    { emptyRequest with
      id := if f.len = 1 then frameByte f 0 else 0
      result := .damaged }
  else
    let r : Request := { emptyRequest with id := frameByte f 0, func := frameByte f 1 }
    match formatOf r.func with
    | .rd => decodeRd f r
    | .ws => decodeWs f r
    | .wm => decodeWm f r
    | .unknown => { r with result := .unknownFunction }

/-- The operation of a parsed request: the function code's row of R110. -/
def requestInstr (r : Request) : Instr :=
  match r.func.toNat with
  | 1 => .rdCoils r.id r.addr r.qty
  | 2 => .rdDiscrete r.id r.addr r.qty
  | 3 => .rdHolding r.id r.addr r.qty
  | 4 => .rdInput r.id r.addr r.qty
  | 5 => .wrCoil r.id r.addr (be16 (r.data.getD 0 0) (r.data.getD 1 0))
  | 6 => .wrReg r.id r.addr (be16 (r.data.getD 0 0) (r.data.getD 1 0))
  | 15 => .wrCoils r.id r.addr r.qty r.data
  | 16 => .wrRegs r.id r.addr r.qty r.data
  | _ => .illegalFn r.id r.func

/-- What a decoded request is to the dispatcher. An unknown function is an operation of its own, `ILLEGAL_FN`, since the
dispatcher answers it (R163, R164, C1). -/
def decodedOf (r : Request) : Decoded :=
  match r.result with
  | .ok => .instr (requestInstr r)
  | .unknownFunction => .instr (.illegalFn r.id r.func)
  | .damaged => .damaged
  | .crcMismatch => .crcMismatch

/-- The frame the framer takes when exactly these bytes were received (R247, R31). -/
def frameOf (bytes : List Byte) : Frame where
  bytes := bytes.take Config.accDepth
  len := bytes.length
  ovf := decide (Config.accDepth < bytes.length)

/-- The decoder of the host port's 3-bit op: `op[2]` selects Set, `op[1:0]` the bank; Get ignores `value` (R280). -/
def decodeHost (op : BitVec 3) (addr value : Word) : Instr :=
  match op.toNat with
  | 0 => .getDi addr
  | 1 => .getCoil addr
  | 2 => .getIr addr
  | 3 => .getHr addr
  | 4 => .setDi addr value
  | 5 => .setCoil addr value
  | 6 => .setIr addr value
  | _ => .setHr addr value

/-- The decoder, total on any frame and any host request. -/
def decode : Code → Decoded
  | .frame bytes => decodedOf (decodeRequest (frameOf bytes))
  | .host op addr value => .instr (decodeHost op addr value)

/-! ## The encoder -/

/-- Formats RD and WS up to the CRC: id, function code, address, 16-bit argument, high bytes first (R92, R93). -/
def shortBody (id func : Byte) (addr arg : Word) : List Byte :=
  [id, func] ++ beBytes addr ++ beBytes arg

/-- Format WM up to the CRC (R94). -/
def longBody (id func : Byte) (addr qty : Word) (data : List Byte) : List Byte :=
  shortBody id func addr qty ++ [BitVec.ofNat 8 data.length] ++ data

/-- The code of an operation, written from R92 to R94 and R280. `ILLEGAL_FN id, func` stands for `[id, func] ++ CRC` (R114).
A Get sends the ignored `value` as 0. -/
def encode : Instr → Code
  | .rdCoils id addr qty => .frame (withCrc (shortBody id 1 addr qty))
  | .rdDiscrete id addr qty => .frame (withCrc (shortBody id 2 addr qty))
  | .rdHolding id addr qty => .frame (withCrc (shortBody id 3 addr qty))
  | .rdInput id addr qty => .frame (withCrc (shortBody id 4 addr qty))
  | .wrCoil id addr arg => .frame (withCrc (shortBody id 5 addr arg))
  | .wrReg id addr arg => .frame (withCrc (shortBody id 6 addr arg))
  | .wrCoils id addr qty data => .frame (withCrc (longBody id 15 addr qty data))
  | .wrRegs id addr qty data => .frame (withCrc (longBody id 16 addr qty data))
  | .illegalFn id func => .frame (withCrc [id, func])
  | .getDi addr => .host 0 addr 0
  | .getCoil addr => .host 1 addr 0
  | .getIr addr => .host 2 addr 0
  | .getHr addr => .host 3 addr 0
  | .setDi addr value => .host 4 addr value
  | .setCoil addr value => .host 5 addr value
  | .setIr addr value => .host 6 addr value
  | .setHr addr value => .host 7 addr value

/-! ## The words of the opcode table -/

/-- The low `n` bytes of a word, least significant first. -/
def wordBytes : Nat → Nat → List Byte
  | 0, _ => []
  | n + 1, w => BitVec.ofNat 8 w :: wordBytes n (w / 256)

/-- Cut a byte sequence to `n` bytes, zero bytes standing for those it lacks. -/
def fitBytes (n : Nat) (l : List Byte) : List Byte := (l ++ List.replicate n 0).take n

/-- The bytes from byte 1 to the last byte before the CRC that a table word stands for: the word's bytes, then zeros up to the
length the function code fixes (R91). -/
def tableBody (nbits w : Nat) : List Byte :=
  let given := fitBytes (max 1 ((nbits + 7) / 8)) (wordBytes ((nbits + 7) / 8) w)
  match formatOf (given.getD 0 0) with
  | .rd => fitBytes 5 given
  | .ws => fitBytes 5 given
  | .wm => fitBytes (6 + (given.getD 5 0).toNat) given
  | .unknown => given

/-- The frame a table word stands for: the word's bit 0 is bit 0 of frame byte 1 ("match_field" of the table), byte 0 is
`Config.tableSlaveId`, and the CRC is appended as R114 says. DESIGN CHOICE (log entry 3). -/
def tableFrame (nbits w : Nat) : List Byte :=
  withCrc (Config.tableSlaveId :: tableBody nbits w)

/-- The code a table word stands for. The table numbers two encoding spaces with one word each: frame byte 1 and the host op.
DESIGN CHOICE (log entry 3): a word that is one of the eight function codes is a frame; any other single-byte word below 8 is
a host op with address and value 0; every other word is a frame. -/
def tableCode (nbits w : Nat) : Code :=
  if !standardCodes.contains (BitVec.ofNat 8 w) && decide (0 < nbits) && decide (nbits ≤ 8) && decide (w < 8) then
    .host (BitVec.ofNat 3 w) 0 0
  else .frame (tableFrame nbits w)

/-- The instruction the decoder reads from a word of the opcode table. -/
def decodeTableWord (nbits w : Nat) : Option Instr :=
  match decode (tableCode nbits w) with
  | .instr i => some i
  | .damaged => none
  | .crcMismatch => none

end Sys2Proof
end

