-- ==== Sys2Proof/Machine/State.lean ====
section
/-! DEFINITION. The state of the block (10_state.md) as plain data, its value after reset (R341), and the reasons a step can stop. -/

namespace Sys2Proof.Machine

/-- `FR_STATE` (R29, R240). -/
inductive FrState where
  | receive
  | process
  | transmit
  | settle
  | halted
  deriving DecidableEq, Repr

/-- The position inside `PROCESS` (R29, R252): the internal step that comes next. -/
inductive Pos where
  /-- `Decode` (R250). -/
  | decode
  /-- The scaffold and steps 1 to 3 of the dispatcher, with the handler's own check (R168). -/
  | dispatch
  /-- The handler's bank access number `i`, with the data packed so far; past the last access, its builder call (R69). -/
  | access (i : Nat) (buf : List Byte)
  /-- `DISP_OUT` and step 4 of the dispatcher (R164, R166). -/
  | finish
  /-- `GetADU` and the end of `PROCESS` (R250, R251). -/
  | encode
  deriving DecidableEq, Repr

/-- An item of `RX_FIFO` (R30). -/
inductive RxItem where
  | byte (b : Byte)
  | err (e : ErrVal)
  deriving DecidableEq, Repr

/-- The accumulation buffer `ACC` (R31). `bytes` lists the stored bytes that have been written since the buffer was last
cleared: the others are unspecified and never read (log entry 5). -/
structure Acc where
  bytes : List Byte
  len : Nat
  ovf : Bool
  deriving DecidableEq, Repr

/-- The response registers `RESP` (R34). -/
structure Response where
  id : Byte
  func : Byte
  err : Byte
  addr : Word
  data : List Byte
  unanswered : Bool
  deriving DecidableEq, Repr

/-- `DISP_OUT` (R36). -/
inductive DispOut where
  | unaddressed
  | parseFailed
  | dispatched
  | broadcastSuppressed
  deriving DecidableEq, Repr

/-- `EXIT_CAUSE` (R37). -/
inductive ExitCause where
  | none
  | readError (e : ErrVal)
  | writeError (e : ErrVal)
  | rxOverrun
  deriving DecidableEq, Repr

/-- The sticky bits `FAULT` (R38). -/
structure FaultBits where
  rxOverrun : Bool
  cbOverflow : Bool
  deriving DecidableEq, Repr

/-- The four register banks `BANK[k]` (R40), each in the sparse form of `Cells`. -/
structure Banks where
  di : Cells 1
  coil : Cells 1
  ir : Cells 16
  hr : Cells 16
  deriving DecidableEq, Repr

/-- The kind of an access event (R41). -/
inductive CbKind where
  | read
  | write
  deriving DecidableEq, Repr

/-- An access event `(bank, kind, address, value)` (R41, R281). -/
structure CbEvent where
  bank : BankId
  kind : CbKind
  addr : Nat
  value : Word
  deriving DecidableEq, Repr

/-- `host_resp` (R280): the cell value of a Get, `ok` or `err` of a Set. -/
inductive HostResp where
  | value (v : Word)
  | ok
  | err
  deriving DecidableEq, Repr

/-- One move of a run: an input event that the environment offers (R44), a level change of the reset input with the platform's
configuration write (R340), or a turn of the framer engine (R8). The moves come one at a time, in any order (R308). -/
inductive Move where
  /-- The framer engine's turn. In `PROCESS` it makes at most `quantum` internal steps (`none`: as many as the frame needs) before
  the next move; elsewhere it makes one. So other agents' moves may fall between any two internal steps (R69, R252). -/
  | engine (quantum : Option Nat)
  | rxByte (b : Byte)
  | rxError (e : ErrVal)
  | usTick
  | txAccept
  | txError (e : ErrVal)
  /-- Host agent number `agent` (R8, R280) issues a request. -/
  | hostReq (agent : Nat) (op : BitVec 3) (addr value : Word)
  | cbTake (ev : CbEvent)
  | resetAssert
  /-- The platform writes CFG0 to CFG9 (R27, R345). -/
  | cfgWrite (c : Cfg)
  | resetRelease
  deriving DecidableEq, Repr

/-- The state of the block, and at the end the model's own fields: where the engine is between moves, and the environment's side. -/
structure State where
  /-- CFG0 to CFG9 (R20 to R26). -/
  cfg : Cfg
  /-- The structural parameters (R9). -/
  params : Params
  /-- `BANK[k]` (R40). -/
  banks : Banks
  /-- `CB_QUEUE`, a multiset (R41): held in rising order of `eventKey`, so that equal multisets are equal data. -/
  cbQueue : List CbEvent
  /-- `FAULT` (R38). -/
  fault : FaultBits
  /-- `FR_STATE` (R29). -/
  frState : FrState
  /-- The position inside `PROCESS` (R29); it has no meaning elsewhere. -/
  pos : Pos
  /-- `RX_FIFO`, oldest first (R30). -/
  rxFifo : List RxItem
  /-- `ACC` (R31). -/
  acc : Acc
  /-- `IDLE_US` (R32). -/
  idleUs : BitVec 32
  /-- Ticks that arrived in `RECEIVE` while items were queued (R245), or behind such ticks (log entry 8), and are not counted yet. -/
  ticksHeld : Nat
  /-- `FRAME`: the frame taken last (R247, R250). -/
  frame : Frame
  /-- `REQ` (R35). -/
  req : Request
  /-- `RESP` (R34). -/
  resp : Response
  /-- `DISP_OUT` (R36). -/
  dispOut : DispOut
  /-- `FINAL` (R37). -/
  final : Bool
  /-- `EXIT_CAUSE` (R37). -/
  exitCause : ExitCause
  /-- `TX_BUF` (R33). -/
  txBuf : List Byte
  /-- `TX_PTR` (R33). -/
  txPtr : Nat
  /-- `SETTLE_US` (R33). -/
  settleUs : BitVec 32
  /-- The level of the `reset` input (R44, R340). -/
  inReset : Bool
  /-- The receiver has delivered its error and takes no further step (R243). -/
  rxEnded : Bool
  /-- The output `host_resp` (R45, R280): the last response given, if any. -/
  hostResp : Option HostResp
  /-- MODEL: the internal steps left to the engine in this turn (`Move.engine`). -/
  quantum : Option Nat
  /-- MODEL: the moves still to come, oldest first. When none is listed the engine takes its turn. -/
  sched : List Move
  /-- MODEL: the bytes the transmitter has accepted, oldest first (they are on the wire and outside the block, R346). -/
  wire : List Byte
  /-- MODEL: the events the consumer has taken, oldest first (outside the block, R342). -/
  delivered : List CbEvent
  deriving DecidableEq, Repr

/-- The faults of a step. The spec gives every event and every instruction an effect in every state, so no step faults and there
is no reason to name: a closed type without constructors (safe). -/
inductive Fault where
  deriving DecidableEq, Repr

/-- The refusals of a step. -/
inductive Refusal where
  /-- Raised by `exec` for an instruction that has no meaning yet; safe. No arm raises it. -/
  | notModelled (mnemonic : String)
  /-- Raised by `step` for a configuration write with a capacity above 65536: the spec refuses such a configuration and has no run
  for it (R28). Safe. -/
  | illegalConfiguration
  deriving DecidableEq, Repr

/-- The machine right after reset is released (R341, R344). Where R341 leaves a value to the platform, see log entries 1 and 2;
for `FRAME`, the position and `host_resp`, which R341 does not list, see log entry 4. -/
def State.reset : State where
  cfg := Config.resetCfg
  params := Config.resetParams
  banks := ⟨[], [], [], []⟩
  cbQueue := []
  fault := ⟨false, false⟩
  frState := .receive
  pos := .decode
  rxFifo := []
  acc := ⟨[], 0, false⟩
  idleUs := 0
  ticksHeld := 0
  frame := ⟨[], 0, false⟩
  req := emptyRequest
  resp := ⟨0, 0, 0, 0, [], false⟩
  dispOut := .unaddressed
  final := false
  exitCause := .none
  txBuf := []
  txPtr := 0
  settleUs := 0
  inReset := false
  rxEnded := false
  hostResp := none
  quantum := none
  sched := []
  wire := []
  delivered := []

end Sys2Proof.Machine
end

