-- ==== Sys2Proof/Machine/Flags.lean ====
section
/-! DEFINITION. The flag-like state (R42): the exception marker, the handler enable bits, the outcome register, and the exit cause. -/

namespace Sys2Proof.Machine

/-- The function byte of an exception response: bit 7 set (R111, R223). -/
def exceptionFunc (func : Byte) : Byte := func ||| 0x80

/-- The `HANDLER_EN` bit of a function code (R24); none for a code outside the eight. -/
def handlerBit (func : Byte) : Option Nat :=
  match func.toNat with
  | 1 => some 0
  | 2 => some 1
  | 3 => some 2
  | 4 => some 3
  | 5 => some 4
  | 6 => some 5
  | 15 => some 6
  | 16 => some 7
  | _ => none

/-- `Present(c)` (R165): one of the eight codes, with its enable bit 1. -/
def present (c : Cfg) (func : Byte) : Bool :=
  match handlerBit func with
  | some b => c.handlerEn.getLsbD b
  | none => false

/-- The address filter passes a frame (R162): its id is the block's own or the broadcast id. -/
def addressed (c : Cfg) (id : Byte) : Bool :=
  id == c.slaveId || id == Config.broadcastId

/-- The outcome of a frame that reached step 3, after step 4 (R164, R166, R167). -/
def outcomeOf (id : Byte) : DispOut :=
  if id = Config.broadcastId then .broadcastSuppressed else .dispatched

/-- `if EXIT_CAUSE = NONE: EXIT_CAUSE <- cause`: the first fatal cause is kept (R307). -/
def firstCause (old new : ExitCause) : ExitCause :=
  match old with
  | .none => new
  | .readError e => .readError e
  | .writeError e => .writeError e
  | .rxOverrun => .rxOverrun

/-- `n` is below a bound, `none` for ∞: a queue of length `n` can take one more item (R242, R281), a host agent of number `n` exists
(R9). -/
def fits (depth : Option Nat) (n : Nat) : Bool :=
  match depth with
  | none => true
  | some d => decide (n < d)

end Sys2Proof.Machine
end

