-- ==== Sys2Proof/Machine/Operands.lean ====
section
/-! DEFINITION. The operand forms of the requests and of the host port: the range check (R180), the packing of read data (R100, R101), the unpacking of write data (R102 to R104), and the value a host writes (R292). -/

namespace Sys2Proof.Machine

/-- `CAP[k]` (R23). -/
def capOf (c : Cfg) (k : BankId) : Nat :=
  match k with
  | .di => c.capDi.toNat
  | .coil => c.capCoil.toNat
  | .ir => c.capIr.toNat
  | .hr => c.capHr.toNat

/-- `CB_EN[k][a] = 1` (R25). -/
def cbEnabled (c : Cfg) (k : BankId) (a : Nat) : Bool :=
  match k with
  | .di => c.cbDi.contains a
  | .coil => c.cbCoil.contains a
  | .ir => c.cbIr.contains a
  | .hr => c.cbHr.contains a

/-- No capacity is above 65536 (R28). -/
def cfgLegal (c : Cfg) : Bool :=
  decide (capOf c .di ≤ 65536) && decide (capOf c .coil ≤ 65536) &&
    decide (capOf c .ir ≤ 65536) && decide (capOf c .hr ≤ 65536)

/-- The structural parameters have legal values (R9): no queue has depth 0. Every number of host agents is legal. -/
def paramsLegal (p : Params) : Bool := p.rxFifoDepth != some 0 && p.cbDepth != some 0

/-- `InRange(k, addr, qty) := (addr + qty) < CAP[k]`, on unbounded naturals (R180, R95). -/
def inRange (c : Cfg) (k : BankId) (addr qty : Word) : Bool :=
  decide (addr.toNat + qty.toNat < capOf c k)

/-- `ceil(qty / 8)` (R10, R100). -/
def ceil8 (qty : Word) : Nat := (qty.toNat + 7) / 8

/-- `buf[i / 8] <- buf[i / 8] | (1 << (i mod 8))` (R181). -/
def orBit (buf : List Byte) (i : Nat) : List Byte :=
  buf.modify (i / 8) (fun b => b ||| (1#8 <<< (i % 8)))

/-- Packing one cell of a bit read: bit `i` is set if the cell is 1 (R100). -/
def packBit (buf : List Byte) (i : Nat) (v : Word) : List Byte :=
  if v = 0 then buf else orBit buf i

/-- Packing one cell of a word read: `buf ++ BE16(v)` (R101). -/
def packWord (buf : List Byte) (v : Word) : List Byte := buf ++ beBytes v

/-- The value of a bit cell: 1 for true, 0 for false (R13). -/
def bitWord (b : Bool) : Word := if b then 1 else 0

/-- The coil value of function code 5: any non-zero data word sets the coil (R104). -/
def coilValue (arg : Word) : Word := bitWord (decide (arg ≠ 0))

/-- The value for coil `addr + i` of function code 15: bit `i mod 8` of data byte `i / 8`, bit 0 least significant (R102). -/
def dataBit (data : List Byte) (i : Nat) : Word :=
  bitWord ((data.getD (i / 8) 0).getLsbD (i % 8))

/-- The value for register `addr + j` of function code 16 (R103). -/
def dataWord (data : List Byte) (j : Nat) : Word :=
  be16 (data.getD (2 * j) 0) (data.getD (2 * j + 1) 0)

/-- The number of coils function code 15 writes: `min(qty, 8 * bc)` (R202). -/
def coilsWritten (qty : Word) (data : List Byte) : Nat := min qty.toNat (8 * data.length)

/-- The number of registers function code 16 writes: `min(qty, bc / 2)` (R203). -/
def regsWritten (qty : Word) (data : List Byte) : Nat := min qty.toNat (data.length / 2)

/-- The value a host Set stores: `value != 0` in a bit bank, the value itself in a word bank (R287 to R290, R292). -/
def hostValue (k : BankId) (value : Word) : Word :=
  match k with
  | .di => bitWord (decide (value ≠ 0))
  | .coil => bitWord (decide (value ≠ 0))
  | .ir => value
  | .hr => value

end Sys2Proof.Machine
end

