-- ==== Sys2Proof/Machine/Ops.lean ====
section
/-! DEFINITION. The named operations over the banks, the event queue, the response registers and the framer state that the units share: `MemRead`, `MemWrite`, `emit`, the builder operations, `SetError` (taking a Modbus exception), `halt`, and entering `RECEIVE`. -/

namespace Sys2Proof.Machine

/-! ## The engine's position and the host port's answer -/

/-- Move the engine to a position inside `PROCESS` (R29). -/
def State.setPos (p : Pos) (s : State) : State := { s with pos := p }

/-- Give the engine a number of internal steps for its turn. -/
def State.setQuantum (q : Option Nat) (s : State) : State := { s with quantum := q }

/-- Give a response on the host port (R280). -/
def State.setHostResp (r : HostResp) (s : State) : State := { s with hostResp := some r }

/-! ## Cells -/

/-- Read one cell of a sparse array; an unlisted address holds 0 (R40). -/
def cellsGet {w : Nat} : Cells w → Nat → BitVec w
  | [], _ => 0
  | (b, v) :: rest, a => if b = a then v else cellsGet rest a

/-- Drop what is listed at an address. -/
def cellsErase {w : Nat} (l : Cells w) (a : Nat) : Cells w := l.filter (fun c => c.1 != a)

/-- List a value in front of the first higher address. -/
def cellsInsert {w : Nat} : Cells w → Nat → BitVec w → Cells w
  | [], a, v => [(a, v)]
  | (b, x) :: rest, a, v => if a < b then (a, v) :: (b, x) :: rest else (b, x) :: cellsInsert rest a v

/-- Write one cell, keeping the canonical form: a cell that becomes 0 is no longer listed. -/
def cellsSet {w : Nat} (l : Cells w) (a : Nat) (v : BitVec w) : Cells w :=
  if v = 0 then cellsErase l a else cellsInsert (cellsErase l a) a v

/-- The canonical form of a sparse array of `cap` cells: addresses strictly rising and below `cap`, no listed 0. -/
def cellsWf {w : Nat} (cap : Nat) : Cells w → Bool
  | [] => true
  | (a, v) :: rest => decide (v ≠ 0) && decide (a < cap) && rest.all (fun c => decide (a < c.1)) && cellsWf cap rest

/-! ## Banks -/

/-- `BANK[k][a]` (R40), zero-extended to 16 bits. -/
def bankGet (b : Banks) (k : BankId) (a : Nat) : Word :=
  match k with
  | .di => (cellsGet b.di a).setWidth 16
  | .coil => (cellsGet b.coil a).setWidth 16
  | .ir => cellsGet b.ir a
  | .hr => cellsGet b.hr a

/-- `BANK[k][a] <- v`; a bit cell keeps bit 0 of `v`, which its callers have made 0 or 1 (R65). -/
def bankSet (b : Banks) (k : BankId) (a : Nat) (v : Word) : Banks :=
  match k with
  | .di => { b with di := cellsSet b.di a (v.setWidth 1) }
  | .coil => { b with coil := cellsSet b.coil a (v.setWidth 1) }
  | .ir => { b with ir := cellsSet b.ir a v }
  | .hr => { b with hr := cellsSet b.hr a v }

/-- Every bank is in canonical form and lists cells that exist (R62). -/
def banksWf (c : Cfg) (b : Banks) : Bool :=
  cellsWf (capOf c .di) b.di && cellsWf (capOf c .coil) b.coil &&
    cellsWf (capOf c .ir) b.ir && cellsWf (capOf c .hr) b.hr

/-- Cell `a` of bank `k` in a state. -/
def State.cell (s : State) (k : BankId) (a : Nat) : Word := bankGet s.banks k a

/-! ## Access events -/

/-- The index of a bank (R60). -/
def bankIndex (k : BankId) : Nat :=
  match k with
  | .di => 0
  | .coil => 1
  | .ir => 2
  | .hr => 3

/-- The index of an event's kind. -/
def kindIndex (k : CbKind) : Nat :=
  match k with
  | .read => 0
  | .write => 1

/-- A number for each event: the order in which the multiset `CB_QUEUE` is written down (log entry 12). -/
def eventKey (e : CbEvent) : Nat :=
  ((e.addr * 4 + bankIndex e.bank) * 2 + kindIndex e.kind) * 65536 + e.value.toNat

/-- Add one event to the multiset. -/
def queueInsert (e : CbEvent) : List CbEvent → List CbEvent
  | [] => [e]
  | x :: rest => if eventKey e ≤ eventKey x then e :: x :: rest else x :: queueInsert e rest

/-- The canonical form of the multiset: keys never fall. -/
def queueSorted (q : List CbEvent) : Bool :=
  match q with
  | [] => true
  | x :: rest => rest.all (fun y => decide (eventKey x ≤ eventKey y)) && queueSorted rest

/-- `emit CbEvent(k, kind, a, v)` (R281): a full queue loses the event and sets the sticky bit (R314). -/
def emit (e : CbEvent) (s : State) : State :=
  if fits s.params.cbDepth s.cbQueue.length then { s with cbQueue := queueInsert e s.cbQueue }
  else { s with fault := { s.fault with cbOverflow := true } }

/-- The event of an access to a cell with a callback; nothing for a cell without (R63, R64). -/
def emitIf (k : BankId) (kind : CbKind) (a : Nat) (v : Word) (s : State) : State :=
  if cbEnabled s.cfg k a then emit ⟨k, kind, a, v⟩ s else s

/-! ## The access primitives -/

/-- `MemRead(k, a)` (R63): the value, and the state with its event emitted. -/
def memRead (k : BankId) (a : Nat) (s : State) : Word × State :=
  if a < capOf s.cfg k then (s.cell k a, emitIf k .read a (s.cell k a) s) else (0, s)

/-- `MemWrite(k, a, v)` (R64): whether it stored (`ok`), and the state with the value stored and its event emitted. -/
def memWrite (k : BankId) (a : Nat) (v : Word) (s : State) : Bool × State :=
  if a < capOf s.cfg k then (true, emitIf k .write a v { s with banks := bankSet s.banks k a v }) else (false, s)

/-! ## The response builder (45_response_encode.md part 1) -/

/-- The response scaffold of a frame (R161). -/
def scaffold (id func : Byte) (s : State) : State :=
  { s with resp := { id := id, func := func, err := 0, addr := 0, data := [], unanswered := false } }

/-- `SetRead(buf)` (R221). -/
def setRead (buf : List Byte) (s : State) : State :=
  { s with resp := { s.resp with data := buf } }

/-- `SetSingleWrite(addr, data)` (R222). -/
def setSingleWrite (addr : Word) (data : List Byte) (s : State) : State :=
  { s with resp := { s.resp with addr := addr, data := data } }

/-- `SetMultiWrite(addr, count)` (R224). -/
def setMultiWrite (addr count : Word) (s : State) : State :=
  { s with resp := { s.resp with addr := addr, data := beBytes count } }

/-- `Unanswered(1)` (R225). -/
def setUnanswered (s : State) : State :=
  { s with resp := { s.resp with unanswered := true } }

/-- Taking a Modbus exception: `SetError(code)` (R223, R301). It sets the exception marker and records the code in `RESP`;
nothing is saved, no mode changes and control goes on (R309). There is no return from an exception (R311). -/
def setError (code : Byte) (s : State) : State :=
  { s with resp := { s.resp with func := exceptionFunc s.resp.func, err := code } }

/-- `ErrorFunction`, illegal function (R115). -/
def errorFunction : Byte := 1

/-- `ErrorAddress`, illegal data address (R115). -/
def errorAddress : Byte := 2

/-- `ErrorData`, illegal data value (R115). -/
def errorData : Byte := 3

/-! ## The framer's own state changes -/

/-- `halt(cause)` (R315). `HALTED` is left only by reset. -/
def halt (cause : ExitCause) (s : State) : State :=
  { s with exitCause := firstCause s.exitCause cause, frState := .halted, rxFifo := [], ticksHeld := 0 }

/-- The empty accumulation buffer (R31, R256). -/
def emptyAcc : Acc := ⟨[], 0, false⟩

/-- Entering `RECEIVE` (R256). -/
def enterReceive (s : State) : State :=
  { s with acc := emptyAcc, idleUs := 0, frState := .receive, ticksHeld := 0 }

/-- The frame is over: halt if it was the last one, else back to `RECEIVE` (R251, R255). -/
def frameDone (s : State) : State :=
  if s.final then halt s.exitCause s else enterReceive s

/-! ## Outputs (R45) and the status view (R39) -/

/-- `tx_offer`: the byte offered to the transmitter, valid in `TRANSMIT` (R45, R253). -/
def State.txOffer (s : State) : Option Byte :=
  match s.frState with
  | .transmit => s.txBuf[s.txPtr]?
  | .receive => none
  | .process => none
  | .settle => none
  | .halted => none

/-- The status outputs (R39): `FR_STATE`, `EXIT_CAUSE`, `DISP_OUT`, `REQ.result`, the two `FAULT` bits, `ACC.len`. -/
def State.status (s : State) : FrState × ExitCause × DispOut × ReqResult × FaultBits × Nat :=
  (s.frState, s.exitCause, s.dispOut, s.req.result, s.fault, s.acc.len)

/-- The mode fields passed unchanged to the serial port collaborator (R21, R26, R320). -/
def State.portMode (s : State) : BitVec 32 × SerialMode := (s.cfg.baud, s.cfg.serialMode)

end Sys2Proof.Machine
end

