-- ==== Sys2Proof/Machine/HostPort.lean ====
section
/-! DEFINITION. The host port operations (47_host_port.md R283 to R290), each one atomic step. -/

namespace Sys2Proof.Machine

/-- A Get of bank `k`: `host_resp <- zext_16(MemRead(k, addr))` (R283 to R286). -/
def hostGet (k : BankId) (addr : Word) (s : State) : State :=
  (memRead k addr.toNat s).2.setHostResp (.value (memRead k addr.toNat s).1)

/-- A Set of bank `k`: `host_resp <- MemWrite(k, addr, value)`, `value != 0` in a bit bank (R287 to R290). -/
def hostSet (k : BankId) (addr value : Word) (s : State) : State :=
  (memWrite k addr.toNat (hostValue k value) s).2.setHostResp
    (if (memWrite k addr.toNat (hostValue k value) s).1 then .ok else .err)

/-- `GET_DI` (R283). -/
def execGetDi (addr : Word) (s : State) : Host.Outcome State Fault Refusal := .next (hostGet .di addr s)

/-- `GET_COIL` (R284). -/
def execGetCoil (addr : Word) (s : State) : Host.Outcome State Fault Refusal := .next (hostGet .coil addr s)

/-- `GET_IR` (R285). -/
def execGetIr (addr : Word) (s : State) : Host.Outcome State Fault Refusal := .next (hostGet .ir addr s)

/-- `GET_HR` (R286). -/
def execGetHr (addr : Word) (s : State) : Host.Outcome State Fault Refusal := .next (hostGet .hr addr s)

/-- `SET_DI` (R287). -/
def execSetDi (addr value : Word) (s : State) : Host.Outcome State Fault Refusal := .next (hostSet .di addr value s)

/-- `SET_COIL` (R288). -/
def execSetCoil (addr value : Word) (s : State) : Host.Outcome State Fault Refusal := .next (hostSet .coil addr value s)

/-- `SET_IR` (R289). -/
def execSetIr (addr value : Word) (s : State) : Host.Outcome State Fault Refusal := .next (hostSet .ir addr value s)

/-- `SET_HR` (R290). -/
def execSetHr (addr value : Word) (s : State) : Host.Outcome State Fault Refusal := .next (hostSet .hr addr value s)

end Sys2Proof.Machine
end

