-- ==== Sys2Proof/Machine/Encoder.lean ====
section
/-! DEFINITION. The response encoder's `GetADU` (45_response_encode.md part 2). -/

namespace Sys2Proof.Machine

/-- Why `GetADU` gives no bytes (R303). -/
inductive FailReason where
  | notAnswer
  | noData
  | shortData
  | zeroError
  | noCategory
  deriving DecidableEq, Repr

/-- The result of `GetADU` (R226). -/
inductive Adu where
  | bytes (t : List Byte)
  | fail (why : FailReason)
  deriving DecidableEq, Repr

/-- The reply before its CRC: format RR (R97). `byteLen` is `len(data) mod 256`. -/
def readReply (r : Response) : List Byte :=
  [r.id, r.func, BitVec.ofNat 8 r.data.length] ++ r.data

/-- The reply before its CRC: format WR (R98). -/
def writeReply (r : Response) : List Byte :=
  [r.id, r.func] ++ beBytes r.addr ++ r.data.take 2

/-- The reply before its CRC: format EX (R99). -/
def errorReply (r : Response) : List Byte := [r.id, r.func, r.err]

/-- `GetADU()` (R226): the unanswered flag first, then the category that `RESP.func` selects. -/
def getAdu (r : Response) : Adu :=
  if r.unanswered then .fail .notAnswer
  else
    match formatOf r.func with
    | .rd => if r.data.length = 0 then .fail .noData else .bytes (withCrc (readReply r))
    | .ws => if r.data.length < 2 then .fail .shortData else .bytes (withCrc (writeReply r))
    | .wm => if r.data.length < 2 then .fail .shortData else .bytes (withCrc (writeReply r))
    | .unknown =>
      if r.func.getLsbD 7 then
        if r.err = 0 then .fail .zeroError else .bytes (withCrc (errorReply r))
      else .fail .noCategory

end Sys2Proof.Machine
end

