-- ==== Sys2Proof/Machine/Sequencer.lean ====
section
/-! DEFINITION. `PROCESS` (R250 to R252): the internal steps of one frame, from the scaffold through the dispatcher (R168), the handler's bank accesses, one a step (R69), and `GetADU`, to the end of `PROCESS` (R251). -/

namespace Sys2Proof.Machine

/-- A function unit (43_read_functions.md, 44_write_functions.md) as the dispatcher runs it. It is fixed logic, no state (R43). -/
structure HandlerUnit where
  /-- The check before the first access: the exception it raises, if any. -/
  check : Cfg → Option Byte
  /-- How many bank accesses the unit makes once its check has passed. -/
  count : Nat
  /-- The packed data before the first access. -/
  init : List Byte
  /-- Access number `i`, with the data packed so far; it sets the position that follows. -/
  access : Nat → List Byte → State → State
  /-- The builder call after the last access. -/
  done : List Byte → State → State

/-- A frame that gets no handler: `Unanswered(1)` and its outcome, straight to the encoder (R162, R163). -/
def suppress (out : DispOut) (s : State) : State :=
  { setUnanswered s with dispOut := out, pos := .encode }

/-- An exception, then step 4 (R164, R309). -/
def raise (code : Byte) (s : State) : State :=
  (setError code s).setPos .finish

/-- Scaffold and steps 1 to 3 of the dispatcher (R168): the address filter, the parse check, the lookup, and the found unit's own
check. -/
def dispatchStart (id func : Byte) (parseFailed : Bool) (u : HandlerUnit) (s : State) : State :=
  if !addressed s.cfg id then suppress .unaddressed (scaffold id func s)
  else if parseFailed then suppress .parseFailed (scaffold id func s)
  else if present s.cfg func then
    match u.check s.cfg with
    | some code => raise code (scaffold id func s)
    | none => (scaffold id func s).setPos (.access 0 u.init)
  else raise errorFunction (scaffold id func s)

/-- `DISP_OUT` and step 4, the broadcast override (R164, R166, R167). -/
def dispatchFinish (id : Byte) (s : State) : State :=
  if id = Config.broadcastId then { setUnanswered s with dispOut := outcomeOf id, pos := .encode }
  else { s with dispOut := outcomeOf id, pos := .encode }

/-- Begin to transmit a reply: the ADU is on offer from its first byte (R251). -/
def offerAdu (t : List Byte) (s : State) : State :=
  { s with txBuf := t, txPtr := 0, frState := .transmit }

/-- `GetADU` and the end of `PROCESS` (R251). -/
def endProcess (s : State) : State :=
  match getAdu s.resp with
  | .bytes t => offerAdu t s
  | .fail _ => frameDone s

/-- One internal step of `PROCESS` (R252). -/
def internalStep (id func : Byte) (parseFailed : Bool) (u : HandlerUnit) (s : State) : State :=
  match s.pos with
  | .decode => dispatchStart id func parseFailed u s
  | .dispatch => dispatchStart id func parseFailed u s
  | .access i buf => if i < u.count then u.access i buf s else (u.done buf s).setPos .finish
  | .finish => dispatchFinish id s
  | .encode => endProcess s

/-- At most `n` internal steps, ending when the frame leaves `PROCESS`. -/
def advance (f : State → State) : Nat → State → State
  | 0, s => s
  | n + 1, s =>
    match s.frState with
    | .process => advance f n (f s)
    | .receive => s
    | .transmit => s
    | .settle => s
    | .halted => s

/-- The engine's turn on a frame in `PROCESS`: as many internal steps as its quantum lets it make, or all that the frame needs
(the dispatcher's step, the accesses and the builder call, step 4, the encoder). -/
def process (id func : Byte) (parseFailed : Bool) (u : HandlerUnit) (s : State) : State :=
  advance (internalStep id func parseFailed u) (s.quantum.getD (u.count + 4)) s

/-- The unit of a frame that no handler sees. -/
def noUnit : HandlerUnit where
  check _ := none
  count := 0
  init := []
  access _ _ s := s
  done _ s := s

end Sys2Proof.Machine
end

