-- ==== Sys2Proof/Machine/IllegalFunction.lean ====
section
/-! DEFINITION. `ILLEGAL_FN` (R164, R112), and the frames that the decoder rejects (R163). -/

namespace Sys2Proof.Machine

/-- `ILLEGAL_FN` (R164): no handler is present for the function byte, so the dispatcher raises exception 1. -/
def execIllegalFn (id func : Byte) (s : State) : Host.Outcome State Fault Refusal :=
  .next (process id func false noUnit s)

/-- A frame with `REQ.result` `DAMAGED` or `CRC_MISMATCH`: step 1 or step 2 of the dispatcher stops it (R162, R163). It is no
instruction of the table. -/
def rejectFrame (s : State) : State :=
  process s.req.id s.req.func true noUnit s

end Sys2Proof.Machine
end

