-- ==== Sys2Proof/Machine/ReadUnits.lean ====
section
/-! DEFINITION. The read function units, codes 1 to 4 (43_read_functions.md). -/

namespace Sys2Proof.Machine

/-- A bit read of bank `k` (R181, R182): range check, one `MemRead` a cell in ascending order, packed least significant bit first. -/
def readBits (k : BankId) (addr qty : Word) : HandlerUnit where
  check c := if inRange c k addr qty then none else some errorAddress
  count := qty.toNat
  init := List.replicate (ceil8 qty) 0
  access i buf s :=
    (memRead k (addr.toNat + i) s).2.setPos (.access (i + 1) (packBit buf i (memRead k (addr.toNat + i) s).1))
  done buf s := setRead buf s

/-- A word read of bank `k` (R183, R184): range check, one `MemRead` a cell in ascending order, each packed big-endian. -/
def readWords (k : BankId) (addr qty : Word) : HandlerUnit where
  check c := if inRange c k addr qty then none else some errorAddress
  count := qty.toNat
  init := []
  access i buf s :=
    (memRead k (addr.toNat + i) s).2.setPos (.access (i + 1) (packWord buf (memRead k (addr.toNat + i) s).1))
  done buf s := setRead buf s

/-- `RD_COILS`, function code 1 (R181). -/
def execRdCoils (id : Byte) (addr qty : Word) (s : State) : Host.Outcome State Fault Refusal :=
  .next (process id 1 false (readBits .coil addr qty) s)

/-- `RD_DISCRETE`, function code 2 (R182). -/
def execRdDiscrete (id : Byte) (addr qty : Word) (s : State) : Host.Outcome State Fault Refusal :=
  .next (process id 2 false (readBits .di addr qty) s)

/-- `RD_HOLDING`, function code 3 (R183). -/
def execRdHolding (id : Byte) (addr qty : Word) (s : State) : Host.Outcome State Fault Refusal :=
  .next (process id 3 false (readWords .hr addr qty) s)

/-- `RD_INPUT`, function code 4 (R184). -/
def execRdInput (id : Byte) (addr qty : Word) (s : State) : Host.Outcome State Fault Refusal :=
  .next (process id 4 false (readWords .ir addr qty) s)

end Sys2Proof.Machine
end

