-- ==== Sys2Proof/Machine/WriteUnits.lean ====
section
/-! DEFINITION. The write function units, codes 5, 6, 15 and 16 (44_write_functions.md). -/

namespace Sys2Proof.Machine

/-- A single write of bank `k` (R200, R201): the store itself is the check, and its error is exception 2; the reply echoes the raw
data word. -/
def writeSingle (k : BankId) (addr arg value : Word) : HandlerUnit where
  check _ := none
  count := 1
  init := []
  access i buf s :=
    if (memWrite k addr.toNat value s).1 then (memWrite k addr.toNat value s).2.setPos (.access (i + 1) buf)
    else raise errorAddress s
  done _ s := setSingleWrite addr (beBytes arg) s

/-- A multiple write of bank `k` (R202, R203): the check, then `n` stores in ascending order, value `i` at `addr + i`; the reply
echoes the quantity. -/
def writeMultiple (k : BankId) (addr qty : Word) (check : Cfg → Option Byte) (n : Nat) (value : Nat → Word) :
    HandlerUnit where
  check := check
  count := n
  init := []
  access i buf s := (memWrite k (addr.toNat + i) (value i) s).2.setPos (.access (i + 1) buf)
  done _ s := setMultiWrite addr qty s

/-- The check of `WR_COILS` (R202). -/
def checkCoils (addr qty : Word) (c : Cfg) : Option Byte :=
  if inRange c .coil addr qty then none else some errorAddress

/-- The checks of `WR_REGS`, the range first, then the even byte count (R203). -/
def checkRegs (addr qty : Word) (data : List Byte) (c : Cfg) : Option Byte :=
  if inRange c .hr addr qty then (if data.length % 2 = 0 then none else some errorData) else some errorAddress

/-- `WR_COIL`, function code 5 (R200). -/
def execWrCoil (id : Byte) (addr arg : Word) (s : State) : Host.Outcome State Fault Refusal :=
  .next (process id 5 false (writeSingle .coil addr arg (coilValue arg)) s)

/-- `WR_REG`, function code 6 (R201). -/
def execWrReg (id : Byte) (addr arg : Word) (s : State) : Host.Outcome State Fault Refusal :=
  .next (process id 6 false (writeSingle .hr addr arg arg) s)

/-- `WR_COILS`, function code 15 (R202). -/
def execWrCoils (id : Byte) (addr qty : Word) (data : List Byte) (s : State) : Host.Outcome State Fault Refusal :=
  .next (process id 15 false
    (writeMultiple .coil addr qty (checkCoils addr qty) (coilsWritten qty data) (dataBit data)) s)

/-- `WR_REGS`, function code 16 (R203). -/
def execWrRegs (id : Byte) (addr qty : Word) (data : List Byte) (s : State) : Host.Outcome State Fault Refusal :=
  .next (process id 16 false
    (writeMultiple .hr addr qty (checkRegs addr qty data) (regsWritten qty data) (dataWord data)) s)

end Sys2Proof.Machine
end

