-- ==== Sys2Proof/Machine/Dispatch.lean ====
section
/-! DEFINITION. The dispatch of an instruction to its meaning. -/

namespace Sys2Proof.Machine

def exec (i : Instr) (s : State) : Host.Outcome State Fault Refusal :=
  match i with
  -- the wire: function codes 1 to 6, 15, 16 and every other code
  | .rdCoils id addr qty => Sys2Proof.Machine.execRdCoils id addr qty s
  | .rdDiscrete id addr qty => Sys2Proof.Machine.execRdDiscrete id addr qty s
  | .rdHolding id addr qty => Sys2Proof.Machine.execRdHolding id addr qty s
  | .rdInput id addr qty => Sys2Proof.Machine.execRdInput id addr qty s
  | .wrCoil id addr arg => Sys2Proof.Machine.execWrCoil id addr arg s
  | .wrReg id addr arg => Sys2Proof.Machine.execWrReg id addr arg s
  | .wrCoils id addr qty data => Sys2Proof.Machine.execWrCoils id addr qty data s
  | .wrRegs id addr qty data => Sys2Proof.Machine.execWrRegs id addr qty data s
  | .illegalFn id func => Sys2Proof.Machine.execIllegalFn id func s
  -- the host port
  | .getDi addr => Sys2Proof.Machine.execGetDi addr s
  | .getCoil addr => Sys2Proof.Machine.execGetCoil addr s
  | .getIr addr => Sys2Proof.Machine.execGetIr addr s
  | .getHr addr => Sys2Proof.Machine.execGetHr addr s
  | .setDi addr value => Sys2Proof.Machine.execSetDi addr value s
  | .setCoil addr value => Sys2Proof.Machine.execSetCoil addr value s
  | .setIr addr value => Sys2Proof.Machine.execSetIr addr value s
  | .setHr addr value => Sys2Proof.Machine.execSetHr addr value s

end Sys2Proof.Machine
end

