-- ==== Sys2Proof/Machine/Framer.lean ====
section
/-! DEFINITION. The silent-interval framer (46_framer.md), the bounded receive queue (R313), the event consumer (R282), reset (70_reset_and_hazards.md), and the fetch of a frame's instruction. -/

namespace Sys2Proof.Machine

/-! ## The silent interval -/

/-- `T_SILENT` in ticks (R241). -/
def tSilent (c : Cfg) : BitVec 32 :=
  if c.silentOvr ≠ 0 then c.silentOvr
  else if c.baud.toInt ≤ 0 ∨ 19200 < c.baud.toInt then 1750
  else BitVec.ofNat 32 (35000000 / c.baud.toNat)

/-! ## The receiver -/

/-- The receive queue is full when the receiver delivers: the item is lost (R313). -/
def overrun (s : State) : State :=
  let s' := { s with
    fault := { s.fault with rxOverrun := true }
    exitCause := firstCause s.exitCause .rxOverrun }
  match s.frState with
  | .receive => halt s'.exitCause s'
  | .process => { s' with final := true }
  | .transmit => { s' with final := true }
  | .settle => { s' with final := true }
  | .halted => s

/-- The receiver delivers an item (R242): queued, or lost to an overrun, or discarded in `HALTED`. -/
def enqueue (item : RxItem) (s : State) : State :=
  match s.frState with
  | .halted => s
  | .receive => if fits s.params.rxFifoDepth s.rxFifo.length then { s with rxFifo := s.rxFifo ++ [item] } else overrun s
  | .process => if fits s.params.rxFifoDepth s.rxFifo.length then { s with rxFifo := s.rxFifo ++ [item] } else overrun s
  | .transmit => if fits s.params.rxFifoDepth s.rxFifo.length then { s with rxFifo := s.rxFifo ++ [item] } else overrun s
  | .settle => if fits s.params.rxFifoDepth s.rxFifo.length then { s with rxFifo := s.rxFifo ++ [item] } else overrun s

/-- `rx_byte(b)` (R242); none comes after `rx_error` (R243). -/
def rxByte (b : Byte) (s : State) : State :=
  if s.rxEnded then s else enqueue (.byte b) s

/-- `rx_error(e)` (R242): the receiver's last delivery (R243). -/
def rxError (e : ErrVal) (s : State) : State :=
  if s.rxEnded then s else enqueue (.err e) { s with rxEnded := true }

/-! ## The engine in RECEIVE -/

/-- Append a byte to `ACC` (R244): counted always, stored while there is room. -/
def accAppend (b : Byte) (a : Acc) : Acc where
  bytes := if a.len < Config.accDepth then a.bytes ++ [b] else a.bytes
  len := a.len + 1
  ovf := a.ovf || decide (Config.accDepth < a.len + 1)

/-- Pop `Byte(b)` (R244): append it and restart the timer. -/
def popByte (b : Byte) (s : State) : State :=
  { s with acc := accAppend b s.acc, idleUs := 0 }

/-- Take the accumulated bytes as a frame and enter `PROCESS` (R247, R249). Ticks still held are counted no more: they have no
effect outside `RECEIVE` and `SETTLE` (R252). -/
def takeFrame (s : State) : State :=
  { s with
    frame := ⟨s.acc.bytes.take (min s.acc.len Config.accDepth), s.acc.len, s.acc.ovf⟩
    acc := emptyAcc
    ticksHeld := 0
    pos := .decode
    frState := .process }

/-- Pop `Err(e)` (R249): the accumulated bytes are one last frame; with none, halt. -/
def popErr (e : ErrVal) (s : State) : State :=
  let s' := { s with exitCause := firstCause s.exitCause (.readError e), final := true }
  if 0 < s.acc.len then takeFrame s' else halt (.readError e) s'

/-- Count one tick in `RECEIVE` (R246) and apply the timer's expiry (R247). -/
def countTick (s : State) : State :=
  if s.idleUs + 1 = tSilent s.cfg then
    (if 0 < s.acc.len then takeFrame { s with idleUs := s.idleUs + 1 } else { s with idleUs := 0 })
  else { s with idleUs := s.idleUs + 1 }

/-- One internal step of the engine in `RECEIVE` (R245): pop the head of the queue, or count a held tick once it is empty. -/
def receiveStep (s : State) : State :=
  match s.rxFifo with
  | .byte b :: rest => popByte b { s with rxFifo := rest }
  | .err e :: rest => popErr e { s with rxFifo := rest }
  | [] =>
    match s.ticksHeld with
    | 0 => s
    | n + 1 => countTick { s with ticksHeld := n }

/-! ## Ticks and the transmitter -/

/-- A tick in `SETTLE` (R255). -/
def settleTick (s : State) : State :=
  if s.settleUs + 1 = tSilent s.cfg then frameDone { s with settleUs := s.settleUs + 1 }
  else { s with settleUs := s.settleUs + 1 }

/-- `us_tick` (R319): counted in `RECEIVE`, or held while items are queued (R245), and in `SETTLE`; without effect elsewhere
(R252, R253, R257). DESIGN CHOICE (log entry 8), unsafe: a tick that finds the queue empty but earlier ticks still held joins
them, so a byte delivered after it may be popped before it is counted. -/
def usTick (s : State) : State :=
  match s.frState with
  | .receive => if s.rxFifo = [] ∧ s.ticksHeld = 0 then countTick s else { s with ticksHeld := s.ticksHeld + 1 }
  | .settle => settleTick s
  | .process => s
  | .transmit => s
  | .halted => s

/-- `tx_accept` (R253): the transmitter takes the offered byte; after the last one the settle wait begins. -/
def txAccept (s : State) : State :=
  match s.txOffer with
  | none => s
  | some b =>
    if s.txPtr + 1 = s.txBuf.length then
      { s with txPtr := s.txPtr + 1, wire := s.wire ++ [b], settleUs := 0, frState := .settle }
    else { s with txPtr := s.txPtr + 1, wire := s.wire ++ [b] }

/-- `tx_error(e)` (R254): fatal in `TRANSMIT`, without effect elsewhere (R257, R310). -/
def txError (e : ErrVal) (s : State) : State :=
  match s.frState with
  | .transmit => halt (.writeError e) s
  | .receive => s
  | .process => s
  | .settle => s
  | .halted => s

/-! ## The event consumer -/

/-- `cb_take(ev)` (R282): one copy leaves the queue. An event that is not queued cannot be taken. -/
def cbTake (ev : CbEvent) (s : State) : State :=
  if ev ∈ s.cbQueue then { s with cbQueue := s.cbQueue.erase ev, delivered := s.delivered ++ [ev] } else s

/-! ## Reset -/

/-- Every piece of the block's state at its reset value (R341). The configuration is the platform's, and reset does not choose it
(R342). DESIGN CHOICE (log entry 22), unsafe: in a later reset in which the platform writes nothing, CFG0 to CFG9 keep what they
held, and CFG2 to CFG8 do not go back to their defaults. The parameters, the moves to come, the bytes on the wire and the events
already delivered are outside the block (R342, R346). -/
def blockReset (level : Bool) (s : State) : State :=
  { State.reset with
    cfg := s.cfg
    params := s.params
    inReset := level
    sched := s.sched
    wire := s.wire
    delivered := s.delivered }

/-- A move while reset is asserted (R340): only the platform's configuration write and the release have an effect. A configuration
with a capacity above 65536 is refused (R28). -/
def moveInReset (m : Move) (s : State) : Host.Outcome State Fault Refusal :=
  match m with
  | .cfgWrite c => if cfgLegal c then .next { s with cfg := c } else .refused .illegalConfiguration
  | .resetRelease => .next (blockReset false s)
  | .engine _ => .next s
  | .rxByte _ => .next s
  | .rxError _ => .next s
  | .usTick => .next s
  | .txAccept => .next s
  | .txError _ => .next s
  | .hostReq _ _ _ _ => .next s
  | .cbTake _ => .next s
  | .resetAssert => .next s

/-- An input event while the block runs, host requests and the engine's turns apart. Reset takes effect at once (R308, R346). The
configuration can be written only under reset (R27), so a write now is none. -/
def input (m : Move) (s : State) : State :=
  match m with
  | .rxByte b => rxByte b s
  | .rxError e => rxError e s
  | .usTick => usTick s
  | .txAccept => txAccept s
  | .txError e => txError e s
  | .cbTake ev => cbTake ev s
  | .resetAssert => blockReset true s
  | .cfgWrite _ => s
  | .resetRelease => s
  | .engine _ => s
  | .hostReq _ _ _ _ => s

/-! ## Fetching a host agent's instruction -/

/-- The operation of a host request (R280), if the agent that issues it is one of the `N_HOST` (R9). -/
def hostInstr (agent : Nat) (op : BitVec 3) (addr value : Word) (s : State) : Option Instr :=
  if fits s.params.nHost agent then some (decodeHost op addr value) else none

/-! ## Fetching a frame's instruction -/

/-- The `Decode` step of `PROCESS` (R250): it writes `REQ`, once a frame (R150), and counts as one internal step of the turn. -/
def decodeStage (s : State) : State :=
  match s.pos with
  | .decode =>
    match s.quantum with
    | none => { s with req := decodeRequest s.frame, pos := .dispatch }
    | some 0 => s
    | some (n + 1) => { s with req := decodeRequest s.frame, pos := .dispatch, quantum := some n }
  | .dispatch => s
  | .access _ _ => s
  | .finish => s
  | .encode => s

/-- What the engine does with its turn: the state it works on and, in `PROCESS`, the instruction of the frame, if the decoder gives
one. A rejected frame and the engine's step in `RECEIVE` are complete in the state itself. -/
def engineTurn (q : Option Nat) (s : State) : State × Option Instr :=
  match s.frState with
  | .process =>
    match decodedOf (decodeRequest s.frame) with
    | .instr i => (decodeStage (s.setQuantum q), some i)
    | .damaged => (rejectFrame (decodeStage (s.setQuantum q)), none)
    | .crcMismatch => (rejectFrame (decodeStage (s.setQuantum q)), none)
  | .receive => (receiveStep s, none)
  | .transmit => (s, none)
  | .settle => (s, none)
  | .halted => (s, none)

/-- The parameters with at least one host agent. -/
def withHost (p : Params) : Params :=
  { p with nHost := p.nHost.map (max 1) }

/-- `s` with a code placed so that the very next step runs it: a frame as if it had just been taken (R247), a request of host agent
0 as the next move (R280). -/
def placeCode (c : Code) (s : State) : State :=
  match c with
  | .frame bytes =>
    { s with frame := frameOf bytes, pos := .decode, frState := .process, inReset := false, sched := .engine none :: s.sched }
  | .host op addr value =>
    { s with inReset := false, params := withHost s.params, sched := .hostReq 0 op addr value :: s.sched }

end Sys2Proof.Machine
end

