-- ==== Sys2Proof/Machine/Step.lean ====
section
/-! DEFINITION. One step of the machine: one move of one agent (R7, R8, R308). -/

namespace Sys2Proof.Machine

/-- The framer engine's turn: in `PROCESS` it runs the frame's instruction (R250), elsewhere see `engineTurn`. -/
def runEngine (q : Option Nat) (s : State) : Host.Outcome State Fault Refusal :=
  match engineTurn q s with
  | (s', some i) => exec i s'
  | (s', none) => .next s'

/-- A host request: the meaning of its operation, in one step (R280). An agent that does not exist issues none (R9). -/
def runHost (agent : Nat) (op : BitVec 3) (addr value : Word) (s : State) : Host.Outcome State Fault Refusal :=
  match hostInstr agent op addr value s with
  | some i => exec i s
  | none => .next s

/-- A move while the block runs. -/
def runMove (m : Move) (s : State) : Host.Outcome State Fault Refusal :=
  match m with
  | .engine q => runEngine q s
  | .hostReq agent op addr value => runHost agent op addr value s
  | .rxByte b => .next (input (.rxByte b) s)
  | .rxError e => .next (input (.rxError e) s)
  | .usTick => .next (input .usTick s)
  | .txAccept => .next (input .txAccept s)
  | .txError e => .next (input (.txError e) s)
  | .cbTake ev => .next (input (.cbTake ev) s)
  | .resetAssert => .next (input .resetAssert s)
  | .cfgWrite c => .next (input (.cfgWrite c) s)
  | .resetRelease => .next (input .resetRelease s)

/-- One step: the next move of the schedule; with none left, the engine's turn. While reset is asserted the block takes no step
(R340). -/
def step (s : State) : Host.Outcome State Fault Refusal :=
  match s.sched with
  | [] => if s.inReset then .next s else runEngine none s
  | m :: rest => if s.inReset then moveInReset m { s with sched := rest } else runMove m { s with sched := rest }

/-- `s` with the instruction of a table word placed where the next step takes it from. -/
def State.withFetchWord (s : State) (nbits w : Nat) : State := placeCode (tableCode nbits w) s

end Sys2Proof.Machine
end

