-- ==== Sys2Proof/Safety.lean ====
section
/-! DEFINITION. The terms in which claims are stated: the invariants of the block, when a frame is about to be handled, what an instruction leaves unchanged, and how the handling of a frame ends. -/

namespace Sys2Proof.Machine

/-! ## Addressed frames and enabled functions -/

/-- A frame with this id passes the address filter (R162). -/
def Addressed (c : Cfg) (id : Byte) : Prop := id = c.slaveId ∨ id = 255

/-- The function code has its handler (R165): it stands in the table of R24 and its bit is set. -/
def Enabled (c : Cfg) (func : Byte) : Prop :=
  ∃ p ∈ ([(1, 0), (2, 1), (3, 2), (4, 3), (5, 4), (6, 5), (15, 6), (16, 7)] : List (Byte × Nat)),
    p.1 = func ∧ c.handlerEn.getLsbD p.2 = true

/-! ## Rejected frames -/

/-- The decoder rejects the frame (R163): it is `DAMAGED` or has a wrong CRC. -/
def RejectedBytes (f : Frame) : Prop :=
  (decodeRequest f).result = .damaged ∨ (decodeRequest f).result = .crcMismatch

/-- `DISP_OUT` of a rejected frame (R162, R163, R306): the address filter comes first. -/
def RejectedOutcome (c : Cfg) (id : Byte) (out : DispOut) : Prop :=
  (Addressed c id → out = .parseFailed) ∧ (¬ Addressed c id → out = .unaddressed)

/-- Where the engine can be in a rejected frame: before the decode step; decoded and not yet dispatched; or suppressed and not yet
ended. No handler ever sees it (R165). `REQ` is what R140's pseudocode writes (log entry 11). -/
def Rejected (s : State) : Prop :=
  RejectedBytes s.frame ∧
    (s.pos = .decode ∨
      (s.req = decodeRequest s.frame ∧
        (s.pos = .dispatch ∨
          (s.pos = .encode ∧ s.resp.unanswered = true ∧ RejectedOutcome s.cfg s.req.id s.dispOut))))

/-- The internal steps that a rejected frame still needs: the decode, the dispatcher, the end (R250, R252). -/
def stepsLeft (p : Pos) : Nat :=
  match p with
  | .decode => 3
  | .dispatch => 2
  | .access _ _ => 0
  | .finish => 0
  | .encode => 1

/-! ## Invariants -/

/-- `ACC` counts every byte, stores the first `ACC_DEPTH` and flags the rest (R31). -/
def accWf (a : Acc) : Prop :=
  a.bytes.length = min a.len Config.accDepth ∧ (a.ovf = true ↔ Config.accDepth < a.len)

/-- A taken frame is what `ACC` held (R247). -/
def frameWf (f : Frame) : Prop :=
  f.bytes.length = min f.len Config.accDepth ∧ (f.ovf = true ↔ Config.accDepth < f.len)

/-- A queue of length `n` respects its depth (R30, R41). -/
def withinDepth (depth : Option Nat) (n : Nat) : Prop := ∀ d, depth = some d → n ≤ d

/-- What holds of the block's state at reset and after every step. -/
structure Inv (s : State) : Prop where
  /-- No queue has depth 0 (R9). -/
  params : paramsLegal s.params = true
  /-- No capacity is above 65536 (R28). -/
  cfg : cfgLegal s.cfg = true
  /-- The banks are in canonical form (log entry 18) and list only cells that exist (R62, R65). -/
  banks : banksWf s.cfg s.banks = true
  /-- The event multiset is in canonical form (log entry 12). -/
  queueOrder : queueSorted s.cbQueue = true
  /-- At most `CB_DEPTH` events (R41). -/
  queueFits : withinDepth s.params.cbDepth s.cbQueue.length
  /-- At most `RX_FIFO_DEPTH` items (R30). -/
  fifoFits : withinDepth s.params.rxFifoDepth s.rxFifo.length
  /-- R31. -/
  acc : accWf s.acc
  /-- R247. -/
  frame : frameWf s.frame
  /-- A frame is never empty (R247). -/
  frameNonempty : s.frState = .process ∨ s.frState = .transmit ∨ s.frState = .settle → 0 < s.frame.len
  /-- `REQ` is the decode of the frame once the decode step is done, and until the frame's reply and settle wait are over (R150);
  of a rejected frame too, as the model reads R140 (log entry 11). -/
  decoded : (s.frState = .process ∧ s.pos ≠ .decode) ∨ s.frState = .transmit ∨ s.frState = .settle →
    s.req = decodeRequest s.frame
  /-- The silence timer has not expired (R247, R319). -/
  idle : s.frState = .receive → s.idleUs.toNat < (tSilent s.cfg).toNat
  /-- The settle timer has not expired (R255, R319). -/
  settle : s.frState = .settle → s.settleUs.toNat < (tSilent s.cfg).toNat
  /-- In `RECEIVE` no last frame has been taken (R251, R255). -/
  receiving : s.frState = .receive → s.final = false
  /-- A last frame has a cause (R249, R313). -/
  finalCause : s.final = true → s.exitCause ≠ .none
  /-- A cause means that the run ends after this frame, or has ended (R249, R254, R313). -/
  causeEnds : s.exitCause ≠ .none → s.final = true ∨ s.frState = .halted
  /-- `HALTED` has a cause, and the receive queue is empty (R315). -/
  halted : s.frState = .halted → s.exitCause ≠ .none ∧ s.rxFifo = []
  /-- A lost byte ends the run (R313). -/
  overrun : s.fault.rxOverrun = true → s.exitCause ≠ .none
  /-- In `TRANSMIT` a byte is on offer (R253). -/
  offering : s.frState = .transmit → s.txPtr < s.txBuf.length
  /-- Every ADU on offer carries the CRC of its bytes (R133, R233). -/
  aduCrc : s.frState = .transmit → crc16 s.txBuf = 0
  /-- Ticks are held only in `RECEIVE` (R245, log entry 8). -/
  held : s.frState ≠ .receive → s.ticksHeld = 0
  /-- While reset is asserted the block holds its reset values (R340, R341; the model's reading, log entry 10). -/
  resetValues : s.inReset = true → s = blockReset true s

/-- The reply discipline: a frame is handled only if it is addressed to the block, and answered only if it is also no broadcast
(R162, R166, R169). -/
structure ReplyInv (s : State) : Prop where
  /-- A rejected frame never comes near a handler (R163, R165). -/
  rejected : s.frState = .process → RejectedBytes s.frame → Rejected s
  /-- A handler runs only for an addressed frame. -/
  handling : ∀ i buf, s.frState = .process → s.pos = .access i buf → Addressed s.cfg s.req.id
  /-- Step 4 is reached only by an addressed frame. -/
  finishing : s.frState = .process → s.pos = .finish → Addressed s.cfg s.req.id
  /-- The encoder has leave to answer only a frame that carries the block's id and is no broadcast. -/
  encoding : s.frState = .process → s.pos = .encode → s.resp.unanswered = false →
    s.req.id = s.cfg.slaveId ∧ s.req.id ≠ 255
  /-- An ADU is on offer only for such a frame: its first byte is the block's id. -/
  transmitting : s.frState = .transmit →
    s.req.id = s.cfg.slaveId ∧ s.req.id ≠ 255 ∧ s.frame.bytes.head? = some s.cfg.slaveId

/-! ## Handling a frame -/

/-- A decoded frame is about to be dispatched, and the engine may run it through. -/
def Ready (s : State) : Prop := s.frState = .process ∧ s.pos = .dispatch ∧ s.quantum = none

/-- The frame's handler runs: it is addressed and its function code is enabled. -/
def Handled (s : State) (id func : Byte) : Prop := Addressed s.cfg id ∧ Enabled s.cfg func

/-- What neither the handling of a frame nor a host operation ever changes. -/
structure CoreKeeps (s t : State) : Prop where
  cfg : t.cfg = s.cfg
  params : t.params = s.params
  rxOverrun : t.fault.rxOverrun = s.fault.rxOverrun
  frame : t.frame = s.frame
  req : t.req = s.req
  final : t.final = s.final
  exitCause : t.exitCause = s.exitCause
  settleUs : t.settleUs = s.settleUs
  inReset : t.inReset = s.inReset
  rxEnded : t.rxEnded = s.rxEnded
  quantum : t.quantum = s.quantum
  sched : t.sched = s.sched
  wire : t.wire = s.wire
  delivered : t.delivered = s.delivered

/-- What the handling of a frame never changes. -/
structure FrameKeeps (s t : State) : Prop extends CoreKeeps s t where
  hostResp : t.hostResp = s.hostResp

/-- The receiver's side is untouched: a reply is about to be sent. -/
structure ReceiverKeeps (s t : State) : Prop where
  rxFifo : t.rxFifo = s.rxFifo
  acc : t.acc = s.acc
  idleUs : t.idleUs = s.idleUs
  ticksHeld : t.ticksHeld = s.ticksHeld

/-- The event queue and its overflow bit are untouched. -/
def QueueKeeps (s t : State) : Prop := t.cbQueue = s.cbQueue ∧ t.fault.cbOverflow = s.fault.cbOverflow

/-- The frame is answered: the reply with body `p` and its CRC is on offer from its first byte (R251). -/
def Answered (s t : State) (p : List Byte) : Prop :=
  t.frState = .transmit ∧ t.txBuf = withCrc p ∧ t.txPtr = 0 ∧ ReceiverKeeps s t

/-- The frame is not answered (R251): the block halts if it was the last one, else it is back in `RECEIVE` with the timer armed. -/
def Dropped (s t : State) : Prop :=
  t.txBuf = s.txBuf ∧ t.txPtr = s.txPtr ∧
    (if s.final then t.frState = .halted ∧ t.rxFifo = [] ∧ t.acc = s.acc ∧ t.idleUs = s.idleUs
     else t.frState = .receive ∧ t.rxFifo = s.rxFifo ∧ t.acc = emptyAcc ∧ t.idleUs = 0) ∧
    t.ticksHeld = 0

/-- The end of a frame that reached step 3: answered with body `p`, or suppressed by the broadcast override (R166, R251). -/
def Concluded (s t : State) (id : Byte) (p : List Byte) : Prop :=
  (id = 255 → Dropped s t ∧ t.dispOut = .broadcastSuppressed ∧ t.resp.unanswered = true) ∧
  (id ≠ 255 → Answered s t p ∧ t.dispOut = .dispatched)

/-- The exception response with code `code` (R99, R301): its body. -/
def exceptionBody (id func code : Byte) : List Byte := [id, func ||| 0x80, code]

/-- The end of a frame that raised exception `code` (R223, R301): recorded in `RESP`, and answered by an exception response unless the
frame is a broadcast. -/
def Excepted (s t : State) (id func code : Byte) : Prop :=
  Concluded s t id (exceptionBody id func code) ∧ t.resp.func = func ||| 0x80 ∧ t.resp.err = code

/-! ## The length check -/

/-- The number of received bytes is the one the function code fixes (R91). -/
def LengthFits (bytes : List Byte) : Prop :=
  (bytes.getD 1 0 ∈ ([1, 2, 3, 4, 5, 6] : List Byte) ∧ bytes.length = 8) ∨
    (bytes.getD 1 0 ∈ ([15, 16] : List Byte) ∧ 7 ≤ bytes.length ∧ bytes.length = 9 + (bytes.getD 6 0).toNat)

/-! ## The shapes of the requests -/

/-- The two bit reads (R181, R182). -/
def BitRead (i : Instr) (k : BankId) (id func : Byte) (addr qty : Word) : Prop :=
  (i = .rdCoils id addr qty ∧ k = .coil ∧ func = 1) ∨ (i = .rdDiscrete id addr qty ∧ k = .di ∧ func = 2)

/-- The two word reads (R183, R184). -/
def WordRead (i : Instr) (k : BankId) (id func : Byte) (addr qty : Word) : Prop :=
  (i = .rdHolding id addr qty ∧ k = .hr ∧ func = 3) ∨ (i = .rdInput id addr qty ∧ k = .ir ∧ func = 4)

/-- The two single writes (R200, R201): the bank, the value stored, the raw argument. -/
def SingleWrite (i : Instr) (k : BankId) (id func : Byte) (addr arg value : Word) : Prop :=
  (i = .wrCoil id addr arg ∧ k = .coil ∧ func = 5 ∧ value = (if arg = 0 then 0 else 1)) ∨
    (i = .wrReg id addr arg ∧ k = .hr ∧ func = 6 ∧ value = arg)

/-- The two multiple writes (R202, R203): the bank, the number of cells written, and value number `j`. -/
def MultiWrite (i : Instr) (k : BankId) (id func : Byte) (addr qty : Word) (data : List Byte) (n : Nat)
    (value : Nat → Word) : Prop :=
  (i = .wrCoils id addr qty data ∧ k = .coil ∧ func = 15 ∧ n = min qty.toNat (8 * data.length) ∧
      ∀ j, value j = if (data.getD (j / 8) 0).getLsbD (j % 8) then 1 else 0) ∨
    (i = .wrRegs id addr qty data ∧ k = .hr ∧ func = 16 ∧ n = min qty.toNat (data.length / 2) ∧
      ∀ j, value j = be16 (data.getD (2 * j) 0) (data.getD (2 * j + 1) 0))

/-- The nine requests of the wire: the id and function code each carries. -/
def WireRequest (i : Instr) (id func : Byte) : Prop :=
  (∃ a q, i = .rdCoils id a q ∧ func = 1) ∨ (∃ a q, i = .rdDiscrete id a q ∧ func = 2) ∨
  (∃ a q, i = .rdHolding id a q ∧ func = 3) ∨ (∃ a q, i = .rdInput id a q ∧ func = 4) ∨
  (∃ a v, i = .wrCoil id a v ∧ func = 5) ∨ (∃ a v, i = .wrReg id a v ∧ func = 6) ∨
  (∃ a q d, i = .wrCoils id a q d ∧ func = 15) ∨ (∃ a q d, i = .wrRegs id a q d ∧ func = 16) ∨
  (i = .illegalFn id func)

/-- The four Gets (R283 to R286). -/
def HostGetOp (i : Instr) (k : BankId) (addr : Word) : Prop :=
  (i = .getDi addr ∧ k = .di) ∨ (i = .getCoil addr ∧ k = .coil) ∨ (i = .getIr addr ∧ k = .ir) ∨
    (i = .getHr addr ∧ k = .hr)

/-- The four Sets (R287 to R290): the value stored is `value != 0` in a bit bank. -/
def HostSetOp (i : Instr) (k : BankId) (addr value stored : Word) : Prop :=
  (i = .setDi addr value ∧ k = .di ∧ stored = if value = 0 then 0 else 1) ∨
  (i = .setCoil addr value ∧ k = .coil ∧ stored = if value = 0 then 0 else 1) ∨
  (i = .setIr addr value ∧ k = .ir ∧ stored = value) ∨ (i = .setHr addr value ∧ k = .hr ∧ stored = value)

/-- What a host operation never changes: all but the banks, the event queue, its overflow bit and the answer (R291). -/
structure HostKeeps (s t : State) : Prop extends CoreKeeps s t where
  frState : t.frState = s.frState
  pos : t.pos = s.pos
  resp : t.resp = s.resp
  dispOut : t.dispOut = s.dispOut
  txBuf : t.txBuf = s.txBuf
  txPtr : t.txPtr = s.txPtr
  receiver : ReceiverKeeps s t

/-! ## Events -/

/-- The access events of `n` accesses from address `a` on, in order: one for each cell with a callback (R187, R206). -/
def accessEvents (c : Cfg) (k : BankId) (kind : CbKind) (a n : Nat) (value : Nat → Word) : List CbEvent :=
  ((List.range n).filter (fun i => cbEnabled c k (a + i))).map (fun i => ⟨k, kind, a + i, value i⟩)

/-- The events of `l`, emitted in this order, for which the queue has room: all of them when it is unbounded (R281). -/
def eventsKept (s : State) (l : List CbEvent) : List CbEvent :=
  match s.params.cbDepth with
  | none => l
  | some d => l.take (d - s.cbQueue.length)

/-- The events `l` have been emitted, in this order and with none taken between: those that find room are in the queue, and the
overflow bit is set if one of them found none (R281, R314). -/
def Emitted (s t : State) (l : List CbEvent) : Prop :=
  t.cbQueue.Perm (s.cbQueue ++ eventsKept s l) ∧
    t.fault.cbOverflow = (s.fault.cbOverflow || decide ((eventsKept s l).length < l.length))

/-! ## Runs -/

/-- The state after `n` steps, if none of them stops. -/
def runTo (n : Nat) (s t : State) : Prop := Host.Core.run Sys2Proof.core n s = .next t

end Sys2Proof.Machine
end

