-- ==== Sys2Proof/Certificates/Slice0/Obligations.lean ====
section
/-! DEFINITION. The statements for the provers. -/

open Sys2Proof Sys2Proof.Machine

/-! ## The wire format -/

/-- Decoding the code of a well-formed operation gives that operation back, every operand included. -/
def Obligations.DecodeOfEncodeIsTheInstruction : Prop :=
  ∀ i : Instr, i.wf = true → decode (encode i) = .instr i

/-- A frame that decodes to one of the eight functions is exactly the encoding of what it decodes to, which is well-formed. -/
def Obligations.EncodeOfDecodeIsTheFrame : Prop :=
  ∀ (bytes : List Byte) (i : Instr), decode (.frame bytes) = .instr i → (∀ id func, i ≠ .illegalFn id func) →
    encode i = .frame bytes ∧ i.wf = true

/-- A few words of the spec decode to what it says of them (95_test_vectors.md D1 to D4, D8, D10; R283, R290). -/
def Obligations.DecodeOfSpecWords : Prop :=
  decode (.frame [0x01, 0x01, 0x00, 0x00, 0x00, 0x08, 0x3D, 0xCC]) = .instr (.rdCoils 1 0 8) ∧
  decode (.frame [0x01, 0x05, 0x00, 0x00, 0xFF, 0x00, 0x8C, 0x3A]) = .instr (.wrCoil 1 0 0xFF00) ∧
  decode (.frame [0x01, 0x10, 0x00, 0x01, 0x00, 0x02, 0x04, 0x00, 0x0A, 0x01, 0x02, 0x92, 0x30]) =
    .instr (.wrRegs 1 1 2 [0x00, 0x0A, 0x01, 0x02]) ∧
  decode (.frame [0x01, 0x01, 0x00, 0x00, 0x00, 0x08, 0x3D, 0xCD]) = .crcMismatch ∧
  decode (.frame [0x01, 0x0F, 0x00, 0x00, 0x00, 0x02, 0x01, 0x03, 0x00, 0x17, 0xA8]) = .damaged ∧
  decode (.frame [0x01, 0x00]) = .instr (.illegalFn 1 0) ∧
  decode (.host 0 3 0) = .instr (.getDi 3) ∧ decode (.host 7 7 0xBEEF) = .instr (.setHr 7 0xBEEF)

/-- The worked values of the CRC engine (95_test_vectors.md V1 to V3, V5, V7). -/
def Obligations.CrcOfSpecVectors : Prop :=
  crc16 [0x02, 0x07] = 0x1241 ∧ crc16 [0x01, 0x01, 0x00, 0x00, 0x00, 0x08] = 0xCC3D ∧
  crc16 [0x01, 0x05, 0x00, 0x00, 0xFF, 0x00] = 0x3A8C ∧ crc16 [] = 0xFFFF ∧ crc16 [0xFF] = 0x00FF

/-- R134: the CRC of any sequence with its own CRC appended, low byte first, is zero. -/
def Obligations.AppendedCrcLeavesZeroResidue : Prop :=
  ∀ p : List Byte, crc16 (p ++ [loByte (crc16 p), hiByte (crc16 p)]) = 0

/-- R148: the decoder reports the first failure in the order of the rule, for every received sequence. -/
def Obligations.DecoderReportsFirstFailure : Prop :=
  ∀ bytes : List Byte,
    (bytes.length < 2 → (decodeRequest (frameOf bytes)).result = .damaged) ∧
    (2 ≤ bytes.length →
      (bytes.getD 1 0 ∉ standardCodes → (decodeRequest (frameOf bytes)).result = .unknownFunction) ∧
      (bytes.getD 1 0 ∈ standardCodes →
        (¬ LengthFits bytes → (decodeRequest (frameOf bytes)).result = .damaged) ∧
        (LengthFits bytes →
          (decodeRequest (frameOf bytes)).result =
            if crc16 (bytes.take (bytes.length - 2)) =
                be16 (bytes.getD (bytes.length - 1) 0) (bytes.getD (bytes.length - 2) 0) then .ok
            else .crcMismatch)))

/-- R149: a frame longer than the buffer is `DAMAGED` for a known code and `UNKNOWN_FUNCTION` for any other, whatever else its
stored bytes are. -/
def Obligations.OverlongFrameOutcome : Prop :=
  ∀ f : Frame, Config.accDepth < f.len →
    (f.bytes.getD 1 0 ∈ standardCodes → (decodeRequest f).result = .damaged) ∧
    (f.bytes.getD 1 0 ∉ standardCodes → (decodeRequest f).result = .unknownFunction)

/-- R233: whatever the response registers hold, bytes come out only when an answer is allowed, with a valid trailing CRC, in one of
the formats RR, WR and EX, and an exception response carries a non-zero code. -/
def Obligations.EveryAduIsWellFormed : Prop :=
  ∀ (r : Response) (t : List Byte), getAdu r = .bytes t →
    r.unanswered = false ∧ crc16 t = 0 ∧
    ((r.func ∈ ([1, 2, 3, 4] : List Byte) ∧ r.data ≠ [] ∧
        t = withCrc ([r.id, r.func, BitVec.ofNat 8 r.data.length] ++ r.data)) ∨
      (r.func ∈ ([5, 6, 15, 16] : List Byte) ∧ ∃ d0 d1 rest, r.data = d0 :: d1 :: rest ∧
        t = withCrc [r.id, r.func, hiByte r.addr, loByte r.addr, d0, d1]) ∨
      (r.func.getLsbD 7 = true ∧ r.err ≠ 0 ∧ t = withCrc [r.id, r.func, r.err]))

/-- R226 to R231: when `GetADU` gives bytes, and for which of its reasons it gives none. The clauses are exhaustive: an answerable
response with a read code, a write code, an exception code, or none of these. -/
def Obligations.GetAduFailures : Prop :=
  ∀ r : Response,
    (r.unanswered = true → getAdu r = .fail .notAnswer) ∧
    (r.unanswered = false →
      (r.func ∈ ([1, 2, 3, 4] : List Byte) → getAdu r =
        if r.data = [] then .fail .noData
        else .bytes (withCrc ([r.id, r.func, BitVec.ofNat 8 r.data.length] ++ r.data))) ∧
      (r.func ∈ ([5, 6, 15, 16] : List Byte) → getAdu r =
        if r.data.length < 2 then .fail .shortData
        else .bytes (withCrc ([r.id, r.func, hiByte r.addr, loByte r.addr] ++ r.data.take 2))) ∧
      (r.func.getLsbD 7 = true → getAdu r =
        if r.err = 0 then .fail .zeroError else .bytes (withCrc [r.id, r.func, r.err])) ∧
      (r.func.getLsbD 7 = false → r.func ∉ standardCodes → getAdu r = .fail .noCategory))

/-! ## The dispatcher -/

/-- R162: a request whose id is neither the block's own nor 255 is dropped: nothing is read, stored or sent. For all nine requests. -/
def Obligations.UnaddressedRequestIsIgnored : Prop :=
  ∀ (i : Instr) (id func : Byte) (s : State), WireRequest i id func → Ready s → id ≠ s.cfg.slaveId → id ≠ 255 →
    ∃ t, exec i s = .next t ∧ Dropped s t ∧ t.dispOut = .unaddressed ∧ t.resp.unanswered = true ∧
      FrameKeeps s t ∧ t.banks = s.banks ∧ QueueKeeps s t

/-- R162, R163: a frame that decodes `DAMAGED` or `CRC_MISMATCH` is dropped; its outcome is `PARSE_FAILED` when it is addressed, a
broadcast included, and `UNADDRESSED` when it is not (R306). It holds at every position the engine can have in such a frame and for
a turn of any length: a turn that is too short leaves the frame at such a position, with as many steps fewer to go. That a turn is
counted in internal steps is the model's reading (log entries 6 and 7). That `REQ` after the failed decode is what R140's pseudocode
writes (R140, R150, R151) is the model's reading of a value that U16 leaves open (log entry 11). -/
def Obligations.RejectedFrameIsNeverAnswered : Prop :=
  ∀ (s : State) (q : Option Nat) (rest : List Move), s.inReset = false → s.sched = .engine q :: rest →
    s.frState = .process → Rejected s →
    ∃ t, step s = .next t ∧ t.banks = s.banks ∧ QueueKeeps s t ∧
      FrameKeeps { s with sched := rest, quantum := t.quantum, req := t.req } t ∧
      (q = some 0 → t = { s with sched := rest, quantum := some 0 }) ∧
      (q ≠ some 0 → t.req = decodeRequest s.frame) ∧
      (∀ n, q = some n → n < stepsLeft s.pos →
        t.frState = .process ∧ Rejected t ∧ stepsLeft t.pos = stepsLeft s.pos - n ∧ ReceiverKeeps s t ∧
          t.txBuf = s.txBuf ∧ t.txPtr = s.txPtr) ∧
      (q = none ∨ (∃ n, q = some n ∧ stepsLeft s.pos ≤ n) →
        t.resp.unanswered = true ∧ RejectedOutcome s.cfg t.req.id t.dispOut ∧ Dropped s t)

/-- R164, R165: a request with no handler, `ILLEGAL_FN` and a standard code whose enable bit is clear, gets exception 1 and touches no
bank. For all nine requests. -/
def Obligations.AbsentHandlerAnswersException1 : Prop :=
  ∀ (i : Instr) (id func : Byte) (s : State), WireRequest i id func → Ready s → Addressed s.cfg id →
    ¬ Enabled s.cfg func →
    ∃ t, exec i s = .next t ∧ Excepted s t id func 1 ∧ FrameKeeps s t ∧
      t.banks = s.banks ∧ QueueKeeps s t

/-- R166: no broadcast is ever answered, whatever its handler did. For all nine requests. -/
def Obligations.BroadcastIsNeverAnswered : Prop :=
  ∀ (i : Instr) (func : Byte) (s : State), WireRequest i 255 func → Ready s →
    ∃ t, exec i s = .next t ∧ Dropped s t ∧ t.dispOut = .broadcastSuppressed ∧ t.resp.unanswered = true ∧
      FrameKeeps s t

/-- R206, R310: a request that ends with an exception code has changed no bank and emitted no event. For all nine requests. -/
def Obligations.ExceptionsArePrecise : Prop :=
  ∀ (i : Instr) (id func : Byte) (s t : State), WireRequest i id func → Ready s → exec i s = .next t →
    t.resp.err ≠ 0 → t.banks = s.banks ∧ QueueKeeps s t

/-- R61: no function code writes `DI` or `IR`, wherever in the frame the engine's turn begins or ends.
The bank of each code but 1, 5 and 6 is general knowledge by the spec's own mark (93_implementation_defined.md I3, log entry 13). -/
def Obligations.NoRequestWritesDiscreteOrInput : Prop :=
  ∀ (i : Instr) (id func : Byte) (s t : State), WireRequest i id func → exec i s = .next t →
    ∀ a, t.cell .di a = s.cell .di a ∧ t.cell .ir a = s.cell .ir a

/-! ## The read units -/

/-- R181, R182: a bit read that is in range replies its cells packed least significant bit first, with zero padding, after one `Read`
event for each cell with a callback; with quantity 0 it is not answered; out of range it gets exception 2 and reads nothing.
The bank of each code but 1, 5 and 6 is general knowledge by the spec's own mark (93_implementation_defined.md I3, log entry 13). -/
def Obligations.BitReadRepliesPackedCells : Prop :=
  ∀ (i : Instr) (k : BankId) (id func : Byte) (addr qty : Word) (s : State), BitRead i k id func addr qty →
    Ready s → Handled s id func →
    ∃ t, exec i s = .next t ∧ FrameKeeps s t ∧ t.banks = s.banks ∧
      (capOf s.cfg k ≤ addr.toNat + qty.toNat → Excepted s t id func 2 ∧ QueueKeeps s t) ∧
      (addr.toNat + qty.toNat < capOf s.cfg k → qty = 0 → Dropped s t ∧ QueueKeeps s t ∧
        t.dispOut = (if id = 255 then .broadcastSuppressed else .dispatched)) ∧
      (addr.toNat + qty.toNat < capOf s.cfg k → qty ≠ 0 →
        Emitted s t (accessEvents s.cfg k .read addr.toNat qty.toNat (fun j => s.cell k (addr.toNat + j))) ∧
        ∃ d : List Byte, d.length = (qty.toNat + 7) / 8 ∧ t.resp.data = d ∧
          (∀ j, j < 8 * d.length → (d.getD (j / 8) 0).getLsbD (j % 8) =
            (decide (j < qty.toNat) && decide (s.cell k (addr.toNat + j) ≠ 0))) ∧
          Concluded s t id ([id, func, BitVec.ofNat 8 d.length] ++ d))

/-- R183, R184: a word read that is in range replies its cells big-endian, with `len(data) mod 256` as the byte count, after one `Read`
event for each cell with a callback; with quantity 0 it is not answered; out of range it gets exception 2 and reads nothing.
The bank of each code but 1, 5 and 6 is general knowledge by the spec's own mark (93_implementation_defined.md I3, log entry 13). -/
def Obligations.WordReadRepliesCells : Prop :=
  ∀ (i : Instr) (k : BankId) (id func : Byte) (addr qty : Word) (s : State), WordRead i k id func addr qty →
    Ready s → Handled s id func →
    ∃ t, exec i s = .next t ∧ FrameKeeps s t ∧ t.banks = s.banks ∧
      (capOf s.cfg k ≤ addr.toNat + qty.toNat → Excepted s t id func 2 ∧ QueueKeeps s t) ∧
      (addr.toNat + qty.toNat < capOf s.cfg k → qty = 0 → Dropped s t ∧ QueueKeeps s t ∧
        t.dispOut = (if id = 255 then .broadcastSuppressed else .dispatched)) ∧
      (addr.toNat + qty.toNat < capOf s.cfg k → qty ≠ 0 →
        Emitted s t (accessEvents s.cfg k .read addr.toNat qty.toNat (fun j => s.cell k (addr.toNat + j))) ∧
        t.resp.data = (List.range qty.toNat).flatMap (fun j => beBytes (s.cell k (addr.toNat + j))) ∧
        Concluded s t id ([id, func, BitVec.ofNat 8 (2 * qty.toNat)] ++
          (List.range qty.toNat).flatMap (fun j => beBytes (s.cell k (addr.toNat + j)))))

/-! ## The write units -/

/-- R200, R201: a single write below the capacity stores its value and echoes the raw data word; at or above the capacity it gets
exception 2 and stores nothing. Every other cell keeps its value.
That code 6 is this unit is derived by the spec (R201). -/
def Obligations.SingleWriteStoresAndEchoes : Prop :=
  ∀ (i : Instr) (k : BankId) (id func : Byte) (addr arg value : Word) (s : State),
    SingleWrite i k id func addr arg value → Ready s → Handled s id func →
    ∃ t, exec i s = .next t ∧ FrameKeeps s t ∧
      (addr.toNat < capOf s.cfg k →
        (∀ k' a, t.cell k' a = if k' = k ∧ a = addr.toNat then value else s.cell k' a) ∧
        Emitted s t (accessEvents s.cfg k .write addr.toNat 1 (fun _ => value)) ∧
        t.resp.addr = addr ∧ t.resp.data = beBytes arg ∧
        Concluded s t id ([id, func] ++ beBytes addr ++ beBytes arg)) ∧
      (capOf s.cfg k ≤ addr.toNat → t.banks = s.banks ∧ QueueKeeps s t ∧ Excepted s t id func 2)

/-- R202: `WR_COILS` in range stores `min(qty, 8 * bc)` coils from the data bits, least significant first, leaves every other cell, and
echoes the quantity; out of range it gets exception 2 and stores nothing.
The bank of each code but 1, 5 and 6 is general knowledge by the spec's own mark (93_implementation_defined.md I3, log entry 13). -/
def Obligations.WriteCoilsStoresDataBits : Prop :=
  ∀ (id : Byte) (addr qty : Word) (data : List Byte) (s : State), Ready s → Handled s id 15 →
    ∃ t, exec (.wrCoils id addr qty data) s = .next t ∧ FrameKeeps s t ∧
      (addr.toNat + qty.toNat < capOf s.cfg .coil →
        (∀ k a, t.cell k a =
          if k = .coil ∧ addr.toNat ≤ a ∧ a < addr.toNat + min qty.toNat (8 * data.length) then
            (if (data.getD ((a - addr.toNat) / 8) 0).getLsbD ((a - addr.toNat) % 8) then 1 else 0)
          else s.cell k a) ∧
        Emitted s t (accessEvents s.cfg .coil .write addr.toNat (min qty.toNat (8 * data.length))
          (fun j => if (data.getD (j / 8) 0).getLsbD (j % 8) then 1 else 0)) ∧
        t.resp.addr = addr ∧ t.resp.data = beBytes qty ∧
        Concluded s t id ([id, 15] ++ beBytes addr ++ beBytes qty)) ∧
      (capOf s.cfg .coil ≤ addr.toNat + qty.toNat →
        t.banks = s.banks ∧ QueueKeeps s t ∧ Excepted s t id 15 2)

/-- R203: `WR_REGS` in range and with an even byte count stores `min(qty, bc / 2)` registers, leaves every other cell, and echoes the
quantity; out of range it gets exception 2, else with an odd byte count exception 3, and then stores nothing.
The bank of each code but 1, 5 and 6 is general knowledge by the spec's own mark (93_implementation_defined.md I3, log entry 13). -/
def Obligations.WriteRegsStoresDataWords : Prop :=
  ∀ (id : Byte) (addr qty : Word) (data : List Byte) (s : State), Ready s → Handled s id 16 →
    ∃ t, exec (.wrRegs id addr qty data) s = .next t ∧ FrameKeeps s t ∧
      (addr.toNat + qty.toNat < capOf s.cfg .hr → data.length % 2 = 0 →
        (∀ k a, t.cell k a =
          if k = .hr ∧ addr.toNat ≤ a ∧ a < addr.toNat + min qty.toNat (data.length / 2) then
            be16 (data.getD (2 * (a - addr.toNat)) 0) (data.getD (2 * (a - addr.toNat) + 1) 0)
          else s.cell k a) ∧
        Emitted s t (accessEvents s.cfg .hr .write addr.toNat (min qty.toNat (data.length / 2))
          (fun j => be16 (data.getD (2 * j) 0) (data.getD (2 * j + 1) 0))) ∧
        t.resp.addr = addr ∧ t.resp.data = beBytes qty ∧
        Concluded s t id ([id, 16] ++ beBytes addr ++ beBytes qty)) ∧
      (addr.toNat + qty.toNat < capOf s.cfg .hr → data.length % 2 = 1 →
        t.banks = s.banks ∧ QueueKeeps s t ∧ Excepted s t id 16 3) ∧
      (capOf s.cfg .hr ≤ addr.toNat + qty.toNat →
        t.banks = s.banks ∧ QueueKeeps s t ∧ Excepted s t id 16 2)

/-- R69, R252: another agent may find a multiple write half done. A turn of `j + 1` internal steps leaves the first `j` cells written and
the others not, and the frame still in `PROCESS`.
The bank of each code but 1, 5 and 6 is general knowledge by the spec's own mark (93_implementation_defined.md I3, log entry 13).
That a turn is counted in such steps is the model's reading (log entry 7). -/
def Obligations.MultipleWriteIsSeenHalfDone : Prop :=
  ∀ (i : Instr) (k : BankId) (id func : Byte) (addr qty : Word) (data : List Byte) (n : Nat) (value : Nat → Word)
    (s : State) (j : Nat), MultiWrite i k id func addr qty data n value → s.frState = .process → s.pos = .dispatch →
    s.quantum = some (j + 1) → Handled s id func → addr.toNat + qty.toNat < capOf s.cfg k →
    (k = .hr → data.length % 2 = 0) → j ≤ n →
    ∃ t, exec i s = .next t ∧ t.frState = .process ∧ t.pos = .access j [] ∧
      ∀ k' a, t.cell k' a =
        if k' = k ∧ addr.toNat ≤ a ∧ a < addr.toNat + j then value (a - addr.toNat) else s.cell k' a

/-- R252: how the engine's turns cut a frame changes nothing by itself. After a turn of any number of internal steps, running the frame
to its end gives what running it through at once gives. For all nine requests, at every position.
That a turn is counted in internal steps is the model's reading (log entry 7). -/
def Obligations.PreemptedFrameResumesToSameEnd : Prop :=
  ∀ (i : Instr) (id func : Byte) (s t : State) (n : Nat), WireRequest i id func →
    exec i (s.setQuantum (some n)) = .next t → exec i (t.setQuantum none) = exec i (s.setQuantum none)

/-! ## The access primitives and the host port -/

/-- R63: `MemRead` gives the cell's value, or 0 for an address that names no cell, emits one event if the cell has a callback, and changes
no bank.
It holds for every event queue, bounded or not. -/
def Obligations.MemReadRule : Prop :=
  ∀ (k : BankId) (a : Nat) (s : State),
    (a < capOf s.cfg k → (memRead k a s).1 = s.cell k a ∧
      Emitted s (memRead k a s).2 (accessEvents s.cfg k .read a 1 (fun _ => s.cell k a))) ∧
    (capOf s.cfg k ≤ a → memRead k a s = (0, s)) ∧ (memRead k a s).2.banks = s.banks

/-- R64: `MemWrite` stores a value the cell can hold and emits one event if the cell has a callback, or refuses an address that names no
cell and changes nothing. -/
def Obligations.MemWriteRule : Prop :=
  ∀ (k : BankId) (a : Nat) (v : Word) (s : State), (k = .di ∨ k = .coil → v = 0 ∨ v = 1) →
    (a < capOf s.cfg k → (memWrite k a v s).1 = true ∧
      (∀ k' a', (memWrite k a v s).2.cell k' a' = if k' = k ∧ a' = a then v else s.cell k' a') ∧
      Emitted s (memWrite k a v s).2 (accessEvents s.cfg k .write a 1 (fun _ => v))) ∧
    (capOf s.cfg k ≤ a → memWrite k a v s = (false, s))

/-- R283 to R286, R291: a Get answers the cell's value, or 0 outside the capacity, and changes nothing but the event queue. -/
def Obligations.HostGetAnswersCell : Prop :=
  ∀ (i : Instr) (k : BankId) (addr : Word) (s : State), HostGetOp i k addr →
    ∃ t, exec i s = .next t ∧ HostKeeps s t ∧ t.banks = s.banks ∧
      (addr.toNat < capOf s.cfg k → t.hostResp = some (.value (s.cell k addr.toNat)) ∧
        Emitted s t (accessEvents s.cfg k .read addr.toNat 1 (fun _ => s.cell k addr.toNat))) ∧
      (capOf s.cfg k ≤ addr.toNat → t.hostResp = some (.value 0) ∧ QueueKeeps s t)

/-- R287 to R291: a Set stores its value and answers `ok`, or answers `err` outside the capacity, and leaves every other cell and all the
framer's state. -/
def Obligations.HostSetStoresValue : Prop :=
  ∀ (i : Instr) (k : BankId) (addr value stored : Word) (s : State), HostSetOp i k addr value stored →
    ∃ t, exec i s = .next t ∧ HostKeeps s t ∧
      (addr.toNat < capOf s.cfg k → t.hostResp = some .ok ∧
        (∀ k' a, t.cell k' a = if k' = k ∧ a = addr.toNat then stored else s.cell k' a) ∧
        Emitted s t (accessEvents s.cfg k .write addr.toNat 1 (fun _ => stored))) ∧
      (capOf s.cfg k ≤ addr.toNat → t.hostResp = some .err ∧ t.banks = s.banks ∧ QueueKeeps s t)

/-- R71: a Get that follows a Set of the same cell answers the value just stored. -/
def Obligations.GetAfterSetAnswersStoredValue : Prop :=
  ∀ (i j : Instr) (k : BankId) (addr value stored : Word) (s t u : State), HostSetOp i k addr value stored →
    HostGetOp j k addr → addr.toNat < capOf s.cfg k → exec i s = .next t → exec j t = .next u →
    u.hostResp = some (.value stored)

/-- R281, R314: when the event queue is full an access with a callback completes, its event is lost, and the sticky bit is set. -/
def Obligations.FullEventQueueLosesOnlyTheEvent : Prop :=
  ∀ (i : Instr) (k : BankId) (addr value stored : Word) (s : State) (d : Nat), HostSetOp i k addr value stored →
    addr.toNat < capOf s.cfg k → cbEnabled s.cfg k addr.toNat = true → s.params.cbDepth = some d →
    d ≤ s.cbQueue.length →
    ∃ t, exec i s = .next t ∧ t.hostResp = some .ok ∧ t.cell k addr.toNat = stored ∧ t.cbQueue = s.cbQueue ∧
      t.fault.cbOverflow = true ∧ t.frState = s.frState

/-! ## The framer -/

/-- R241: the silent interval; it is at least one tick, and the serial mode does not enter it. -/
def Obligations.SilentIntervalRule : Prop :=
  ∀ c : Cfg,
    (c.silentOvr ≠ 0 → tSilent c = c.silentOvr) ∧
    (c.silentOvr = 0 → c.baud.toInt ≤ 0 ∨ 19200 < c.baud.toInt → (tSilent c).toNat = 1750) ∧
    (c.silentOvr = 0 → 0 < c.baud.toInt → c.baud.toInt ≤ 19200 →
      ((tSilent c).toNat : Int) = 35000000 / c.baud.toInt) ∧
    1 ≤ (tSilent c).toNat ∧ (∀ m, tSilent { c with serialMode := m } = tSilent c)

/-- R27: the configuration changes by the platform's write under reset and by nothing else; the parameters never change. That a reset in
which the platform writes nothing leaves the configuration is the model's choice (log entry 22). -/
def Obligations.ConfigurationIsStatic : Prop :=
  ∀ s t : State, step s = .next t →
    t.params = s.params ∧
    (t.cfg = s.cfg ∨ (s.inReset = true ∧ s.sched.head? = some (.cfgWrite t.cfg) ∧ ∀ k, capOf t.cfg k ≤ 65536))

/-- R244: a popped byte is counted, stored while there is room, and restarts the timer. -/
def Obligations.PoppedByteRestartsTimer : Prop :=
  ∀ (s : State) (q : Option Nat) (b : Byte) (fifo : List RxItem) (rest : List Move), s.inReset = false →
    s.sched = .engine q :: rest → s.frState = .receive → s.rxFifo = .byte b :: fifo →
    step s = .next { s with
      sched := rest
      rxFifo := fifo
      idleUs := 0
      acc :=
        { bytes := if s.acc.len < 265 then s.acc.bytes ++ [b] else s.acc.bytes
          len := s.acc.len + 1
          ovf := s.acc.ovf || decide (265 < s.acc.len + 1) } }

/-- R246, R247: with nothing queued, `n` ticks of silence that do not reach `T_SILENT` only count; the tick that reaches it takes what has
been accumulated as one frame, or re-arms the timer when there is nothing. -/
def Obligations.SilenceEndsFrameAtTSilent : Prop :=
  ∀ (s : State) (n : Nat) (rest : List Move), s.inReset = false → s.frState = .receive → s.rxFifo = [] →
    s.ticksHeld = 0 → 0 < n → s.sched = List.replicate n .usTick ++ rest →
    (s.idleUs.toNat + n < (tSilent s.cfg).toNat →
      runTo n s { s with sched := rest, idleUs := s.idleUs + BitVec.ofNat 32 n }) ∧
    (s.idleUs.toNat + n = (tSilent s.cfg).toNat → s.acc.len = 0 → runTo n s { s with sched := rest, idleUs := 0 }) ∧
    (s.idleUs.toNat + n = (tSilent s.cfg).toNat → 0 < s.acc.len →
      runTo n s { s with
        sched := rest
        idleUs := tSilent s.cfg
        frState := .process
        pos := .decode
        frame := ⟨s.acc.bytes.take (min s.acc.len 265), s.acc.len, s.acc.ovf⟩
        acc := ⟨[], 0, false⟩ })

/-- R245, R258: bytes that queued up are all appended, oldest first, before a tick that arrived while they were queued is counted; then it
is counted.
That the tick waits in a counter is the model's reading (log entry 8). -/
def Obligations.QueuedBytesComeBeforeHeldTick : Prop :=
  ∀ (s : State) (bytes : List Byte) (rest : List Move), s.inReset = false → s.frState = .receive → bytes ≠ [] →
    s.rxFifo = bytes.map .byte → s.ticksHeld = 0 → s.acc.len + bytes.length ≤ 265 → 1 < (tSilent s.cfg).toNat →
    s.sched = .usTick :: List.replicate bytes.length (.engine none) ++ .engine none :: rest →
    runTo (bytes.length + 1) s { s with
      sched := .engine none :: rest
      rxFifo := []
      ticksHeld := 1
      idleUs := 0
      acc := { s.acc with bytes := s.acc.bytes ++ bytes, len := s.acc.len + bytes.length } } ∧
    runTo (bytes.length + 2) s { s with
      sched := rest
      rxFifo := []
      ticksHeld := 0
      idleUs := 1
      acc := { s.acc with bytes := s.acc.bytes ++ bytes, len := s.acc.len + bytes.length } }

/-- R248: a byte and the tick that completes the silent interval may come in either order, and the order decides: tick first, the frame
ends; byte first, the byte joins it and the timer restarts. -/
def Obligations.RaceOfByteAndTickAdmitsBothOrders : Prop :=
  ∀ (s : State) (b : Byte) (rest : List Move), s.inReset = false → s.frState = .receive → s.rxFifo = [] →
    s.rxEnded = false → s.ticksHeld = 0 → fits s.params.rxFifoDepth 0 = true → s.idleUs + 1 = tSilent s.cfg →
    0 < s.acc.len → s.acc.len < 265 →
    (s.sched = .usTick :: .rxByte b :: rest → ∃ t, runTo 2 s t ∧ t.frState = .process ∧ t.frame.len = s.acc.len ∧
      t.acc.len = 0 ∧ t.rxFifo = [.byte b]) ∧
    (s.sched = .rxByte b :: .engine none :: .usTick :: rest → tSilent s.cfg ≠ 1 →
      ∃ t, runTo 3 s t ∧ t.frState = .receive ∧ t.acc.len = s.acc.len + 1 ∧ t.acc.bytes = s.acc.bytes ++ [b] ∧
        t.idleUs = 1)

/-- R249: a popped read error makes the accumulated bytes one last frame, or halts at once when there are none. -/
def Obligations.PoppedErrorEndsTheRun : Prop :=
  ∀ (s : State) (q : Option Nat) (e : ErrVal) (fifo : List RxItem) (rest : List Move), s.inReset = false →
    s.sched = .engine q :: rest → s.frState = .receive → s.rxFifo = .err e :: fifo →
    ∃ t, step s = .next t ∧ t.final = true ∧ t.banks = s.banks ∧
      t.exitCause = (if s.exitCause = .none then .readError e else s.exitCause) ∧
      (0 < s.acc.len → t.frState = .process ∧ t.pos = .decode ∧ t.rxFifo = fifo ∧ t.acc.len = 0 ∧ t.acc.ovf = false ∧
        t.frame = ⟨s.acc.bytes.take (min s.acc.len 265), s.acc.len, s.acc.ovf⟩) ∧
      (s.acc.len = 0 → t.frState = .halted ∧ t.rxFifo = [] ∧ t.acc = s.acc)

/-- R242, R258: outside `HALTED` a byte or an error delivered to a queue with room is appended at its end, in `PROCESS`, `TRANSMIT` and
`SETTLE` as in `RECEIVE`, and nothing else changes; in `HALTED` it is discarded. R243: after its error the receiver delivers nothing
more, and the model leaves a further delivery without effect (log entry 9); the mark of the error is the model's own field (log
entry 4). -/
def Obligations.ReceiverAppendsAtTheEnd : Prop :=
  ∀ (s : State) (rest : List Move) (b : Byte) (e : ErrVal), s.inReset = false →
    (s.rxEnded = false → (∀ d, s.params.rxFifoDepth = some d → s.rxFifo.length < d) → s.frState ≠ .halted →
      (s.sched = .rxByte b :: rest → step s = .next { s with sched := rest, rxFifo := s.rxFifo ++ [.byte b] }) ∧
      (s.sched = .rxError e :: rest →
        step s = .next { s with sched := rest, rxFifo := s.rxFifo ++ [.err e], rxEnded := true })) ∧
    (s.rxEnded = false → s.frState = .halted →
      (s.sched = .rxByte b :: rest → step s = .next { s with sched := rest }) ∧
      (s.sched = .rxError e :: rest → step s = .next { s with sched := rest, rxEnded := true })) ∧
    (s.rxEnded = true → s.sched = .rxByte b :: rest ∨ s.sched = .rxError e :: rest →
      step s = .next { s with sched := rest })

/-- R313: a byte or an error delivered to a full queue is lost and ends the run: at once in `RECEIVE`, after the frame in progress elsewhere. -/
def Obligations.ReceiveOverrunEndsTheRun : Prop :=
  ∀ (s : State) (m : Move) (d : Nat) (rest : List Move), s.inReset = false → s.rxEnded = false →
    ((∃ b, m = .rxByte b) ∨ ∃ e, m = .rxError e) → s.sched = m :: rest → s.params.rxFifoDepth = some d →
    d ≤ s.rxFifo.length → s.frState ≠ .halted →
    ∃ t, step s = .next t ∧ t.fault.rxOverrun = true ∧ t.banks = s.banks ∧ t.acc = s.acc ∧
      t.exitCause = (if s.exitCause = .none then .rxOverrun else s.exitCause) ∧
      (s.frState = .receive → t.frState = .halted ∧ t.rxFifo = []) ∧
      (s.frState ≠ .receive → t.frState = s.frState ∧ t.rxFifo = s.rxFifo ∧ t.final = true)

/-- R253: the next byte is on offer, ticks have no effect, the reply goes out in order, first byte first, with nothing between, and the
settle wait begins with the last byte. -/
def Obligations.TransmitSendsTheRestInOrder : Prop :=
  ∀ (s : State) (rest : List Move), s.inReset = false → s.frState = .transmit → s.txPtr < s.txBuf.length →
    s.txOffer = s.txBuf[s.txPtr]? ∧
    (s.sched = .usTick :: rest → step s = .next { s with sched := rest }) ∧
    (∀ b, s.txPtr + 1 < s.txBuf.length → s.txBuf[s.txPtr]? = some b → s.sched = .txAccept :: rest →
      step s = .next { s with sched := rest, wire := s.wire ++ [b], txPtr := s.txPtr + 1 }) ∧
    (s.sched = List.replicate (s.txBuf.length - s.txPtr) .txAccept ++ rest →
      runTo (s.txBuf.length - s.txPtr) s { s with
        sched := rest
        wire := s.wire ++ s.txBuf.drop s.txPtr
        txPtr := s.txBuf.length
        settleUs := 0
        frState := .settle })

/-- R254: a transmit error halts at once, and nothing more is sent or offered. -/
def Obligations.TransmitErrorHalts : Prop :=
  ∀ (s : State) (e : ErrVal) (rest : List Move), s.inReset = false → s.frState = .transmit →
    s.sched = .txError e :: rest →
    ∃ t, step s = .next t ∧ t.frState = .halted ∧ t.rxFifo = [] ∧ t.wire = s.wire ∧ t.txOffer = none ∧
      t.banks = s.banks ∧ t.exitCause = (if s.exitCause = .none then .writeError e else s.exitCause)

/-- R255: after the last byte of a reply, `T_SILENT` ticks pass in `SETTLE`; then the run ends if the frame was the last, else the block is
back in `RECEIVE` with the timer armed and the buffer empty. -/
def Obligations.SettleWaitsTSilentTicks : Prop :=
  ∀ (s : State) (n : Nat) (rest : List Move), s.inReset = false → s.frState = .settle → s.settleUs = 0 →
    s.sched = List.replicate n .usTick ++ rest →
    (n < (tSilent s.cfg).toNat → runTo n s { s with sched := rest, settleUs := BitVec.ofNat 32 n }) ∧
    (n = (tSilent s.cfg).toNat → ∃ t, runTo n s t ∧ t.sched = rest ∧ t.exitCause = s.exitCause ∧ t.banks = s.banks ∧
      (s.final = true → t.frState = .halted ∧ t.rxFifo = []) ∧
      (s.final = false → t.frState = .receive ∧ t.rxFifo = s.rxFifo ∧ t.acc = ⟨[], 0, false⟩ ∧ t.idleUs = 0))

/-- R257: in `HALTED` no move but the assertion of reset changes the framer, and no byte is offered; what still changes is the banks, the
event queue with its overflow bit and the deliveries, the host port's answer, and the mark that the receiver has ended. -/
def Obligations.HaltedIsLeftOnlyByReset : Prop :=
  ∀ s t : State, s.frState = .halted → s.inReset = false → s.sched.head? ≠ some .resetAssert → step s = .next t →
    t.txOffer = none ∧
    t = { s with
      sched := s.sched.tail
      banks := t.banks
      cbQueue := t.cbQueue
      fault := { s.fault with cbOverflow := t.fault.cbOverflow }
      delivered := t.delivered
      hostResp := t.hostResp
      rxEnded := t.rxEnded }

/-- R252, R253, R257: a tick has no effect in `PROCESS`, in `TRANSMIT` and in `HALTED`. -/
def Obligations.TicksCountOnlyInReceiveAndSettle : Prop :=
  ∀ (s : State) (rest : List Move), s.inReset = false → s.sched = .usTick :: rest →
    s.frState = .process ∨ s.frState = .transmit ∨ s.frState = .halted → step s = .next { s with sched := rest }

/-- R307: the first fatal cause is kept by every step but the assertion of reset. -/
def Obligations.FirstFatalCauseIsKept : Prop :=
  ∀ s t : State, s.exitCause ≠ .none → s.inReset = false → s.sched.head? ≠ some .resetAssert → step s = .next t →
    t.exitCause = s.exitCause

/-- R282: the consumer takes any queued event, once; nothing else changes. -/
def Obligations.ConsumerTakesOneQueuedEvent : Prop :=
  ∀ (s : State) (ev : CbEvent) (rest : List Move), s.inReset = false → s.sched = .cbTake ev :: rest → ev ∈ s.cbQueue →
    ∃ q, (ev :: q).Perm s.cbQueue ∧
      step s = .next { s with sched := rest, cbQueue := q, delivered := s.delivered ++ [ev] }

/-! ## Reset -/

/-- R341: when reset is released every piece of state has its reset value, the configuration is what the platform wrote, and every cell
of every bank is 0.
The zero cells are general knowledge by the spec's own mark (93_implementation_defined.md I4, log entry 13). That the configuration
stays what it was when the platform has written nothing in this reset is the model's choice (log entry 22). -/
def Obligations.ReleaseLeavesResetValues : Prop :=
  ∀ (s : State) (rest : List Move), s.inReset = true → s.sched = .resetRelease :: rest →
    ∃ t, step s = .next t ∧ t.inReset = false ∧ t.cfg = s.cfg ∧ t.frState = .receive ∧ t.rxFifo = [] ∧ t.acc.len = 0 ∧
      t.acc.ovf = false ∧ t.idleUs = 0 ∧ t.txBuf = [] ∧ t.txPtr = 0 ∧ t.settleUs = 0 ∧
      t.resp = ⟨0, 0, 0, 0, [], false⟩ ∧ t.req = ⟨0, 0, 0, 0, 0, [], 0, .ok⟩ ∧ t.dispOut = .unaddressed ∧
      t.final = false ∧ t.exitCause = .none ∧ t.fault = ⟨false, false⟩ ∧ (∀ k a, t.cell k a = 0) ∧ t.cbQueue = []

/-- R341: the defaults of the configuration registers that have one, in the reset state. -/
def Obligations.ResetHasDefaultConfiguration : Prop :=
  State.reset.cfg.silentOvr = 0 ∧ (∀ k, capOf State.reset.cfg k = 65536) ∧ State.reset.cfg.handlerEn = 0xFF ∧
    (∀ k a, cbEnabled State.reset.cfg k a = false)

/-- R340, R346: while reset is asserted, whatever else is offered, the block takes no step: only the platform's configuration write and the
release have an effect.
That the configuration is written as a whole is the model's reading (log entry 10). -/
def Obligations.AssertedResetStopsTheBlock : Prop :=
  ∀ (s : State) (m : Move) (rest : List Move), s.inReset = true → s.sched = m :: rest → m ≠ .resetRelease →
    (∀ c, m ≠ .cfgWrite c) → step s = .next { s with sched := rest }

/-- R340, R346: the assertion of reset takes effect at once, in every state: the configuration stays, nothing in flight survives, no
register value survives (R341, R343), what is on the wire and what has been delivered is untouched.
The zero cells are general knowledge by the spec's own mark (93_implementation_defined.md I4, log entry 13).
That the reset values hold from the assertion on, and not only after the release, is the model's reading (log entry 10); that the
configuration stays unless the platform writes it is the model's choice (log entry 22). -/
def Obligations.ResetDiscardsWorkInFlight : Prop :=
  ∀ (s : State) (rest : List Move), s.inReset = false → s.sched = .resetAssert :: rest →
    ∃ t, step s = .next t ∧ t.inReset = true ∧ t.cfg = s.cfg ∧ t.frState = .receive ∧ t.rxFifo = [] ∧ t.acc.len = 0 ∧
      t.txOffer = none ∧ t.cbQueue = [] ∧ (∀ k a, t.cell k a = 0) ∧ t.wire = s.wire ∧ t.delivered = s.delivered

/-- A configuration with a capacity above 65536 is refused (R28). That this is all a step ever refuses and that no step faults is the
model's reading: moves that cannot occur have no effect (log entry 9), and the whole write is refused (log entry 10). -/
def Obligations.OnlyIllegalConfigurationIsRefused : Prop :=
  ∀ s : State,
    (∃ c rest, s.inReset = true ∧ s.sched = .cfgWrite c :: rest ∧ (∃ k, 65536 < capOf c k) ∧
      step s = .refused .illegalConfiguration) ∨
    ((∀ c rest, s.inReset = true → s.sched = .cfgWrite c :: rest → ∀ k, capOf c k ≤ 65536) ∧ ∃ t, step s = .next t)

/-! ## The step -/

/-- When the bytes of the frame in `PROCESS` decode to an instruction, the engine's turn is that instruction's meaning: on the state
whose `REQ` the decode step has written when the turn begins with that step (R250), on the state itself when the turn resumes.
The turns and their step count are the model's reading (log entries 6 and 7). -/
def Obligations.StepRunsTheDecodedFrame : Prop :=
  ∀ (s : State) (bytes : List Byte) (i : Instr) (q : Option Nat) (rest : List Move), s.inReset = false →
    s.frState = .process → s.sched = .engine q :: rest → s.frame = frameOf bytes → decode (.frame bytes) = .instr i →
    (s.pos = .decode → q = none →
      step s = exec i { s with sched := rest, quantum := none, req := decodeRequest s.frame, pos := .dispatch }) ∧
    (∀ n, s.pos = .decode → q = some (n + 1) →
      step s = exec i { s with sched := rest, quantum := some n, req := decodeRequest s.frame, pos := .dispatch }) ∧
    (s.pos ≠ .decode → step s = exec i { s with sched := rest, quantum := q })

/-- A request of a host agent that exists is the meaning of the operation its op selects, in one step, in every framer state (R280); an
agent beyond `N_HOST` issues none (R9). The schedule and the agents' numbers are the model's own (log entries 6 and 15). -/
def Obligations.StepServesTheHostRequest : Prop :=
  ∀ (s : State) (agent : Nat) (op : BitVec 3) (addr value : Word) (i : Instr) (rest : List Move), s.inReset = false →
    s.sched = .hostReq agent op addr value :: rest → decode (.host op addr value) = .instr i →
    ((∀ n, s.params.nHost = some n → agent < n) → step s = exec i { s with sched := rest }) ∧
    ((∃ n, s.params.nHost = some n ∧ n ≤ agent) → step s = .next { s with sched := rest })

/-! ## Invariants -/

/-- The reset state meets the invariant.
The reset configuration is in part the model's choice (log entries 1, 2 and 4). -/
def Obligations.ResetMeetsInvariant : Prop := Inv State.reset ∧ ReplyInv State.reset

/-- Every step from a state that meets the invariant ends in one that meets it. Some clauses rest on the model's own readings: the values
under an asserted reset (log entry 10), `REQ` as the decode of a rejected frame (log entry 11, U16), the held ticks (log entry 8), the
order of the event list (log entry 12) and the canonical form of the banks (log entry 18). -/
def Obligations.StepKeepsInvariant : Prop := ∀ s t : State, Inv s → step s = .next t → Inv t

/-- The reply discipline holds after every step: an ADU is on offer only for a frame whose first byte is the block's own id, and which is
no broadcast; a frame that the decoder rejects never comes near a handler (95_test_vectors.md part 4, property 2). The positions in a
frame (log entry 7) and `REQ` as the decode of a rejected frame (log entry 11, U16) are the model's readings. -/
def Obligations.StepKeepsReplyDiscipline : Prop :=
  ∀ s t : State, Inv s → ReplyInv s → step s = .next t → ReplyInv t
end

