-- ==== Sys2Proof/Laws/Cells.lean ====
section
/-! SUPPORT. The laws of the sparse cell arrays and of the banks: a read after a write, a write elsewhere, and the canonical form. -/

-- One thread: the joined file is compiled under a memory limit that a thread for every theorem would exceed.
set_option Elab.async false

namespace Sys2Proof.Machine

variable {w : Nat}

/-! ## Reading after writing -/

@[simp] theorem cellsGet_nil (a : Nat) : cellsGet ([] : Cells w) a = 0 := rfl

theorem cellsGet_erase (l : Cells w) (a b : Nat) :
    cellsGet (cellsErase l a) b = if b = a then 0 else cellsGet l b := by
  induction l with
  | nil => simp [cellsErase]
  | cons c rest ih =>
    obtain ⟨x, v⟩ := c
    unfold cellsErase at ih ⊢
    rw [List.filter_cons]
    by_cases hx : x = a
    · subst hx
      simp only [bne_self_eq_false, Bool.false_eq_true, if_false, ih, cellsGet]
      by_cases hb : b = x
      · simp [hb]
      · simp [hb, Ne.symm hb]
    · simp only [bne_iff_ne, ne_eq, hx, not_false_eq_true, if_true, cellsGet, ih]
      by_cases hxb : x = b
      · subst hxb; simp [hx]
      · simp [hxb]

theorem cellsGet_insert (l : Cells w) (a : Nat) (v : BitVec w) (b : Nat) (h : ∀ c ∈ l, c.1 ≠ a) :
    cellsGet (cellsInsert l a v) b = if b = a then v else cellsGet l b := by
  induction l with
  | nil => simp [cellsInsert, cellsGet, eq_comm]
  | cons c rest ih =>
    obtain ⟨x, u⟩ := c
    have hx : x ≠ a := h (x, u) (by simp)
    have ih' := ih (fun c hc => h c (by simp [hc]))
    unfold cellsInsert
    by_cases hax : a < x
    · simp only [hax, if_true, cellsGet, eq_comm (a := a) (b := b)]
    · simp only [hax, if_false, cellsGet, ih']
      by_cases hxb : x = b
      · subst hxb; simp [hx]
      · simp [hxb]

theorem cellsErase_ne (l : Cells w) (a : Nat) : ∀ c ∈ cellsErase l a, c.1 ≠ a := by
  intro c hc
  simpa using (List.mem_filter.mp hc).2

/-- Reading after a write: the written cell holds the value, every other cell what it held. -/
theorem cellsGet_set (l : Cells w) (a : Nat) (v : BitVec w) (b : Nat) :
    cellsGet (cellsSet l a v) b = if b = a then v else cellsGet l b := by
  unfold cellsSet
  by_cases hv : v = 0
  · simp only [hv, if_true, cellsGet_erase]
  · rw [if_neg hv, cellsGet_insert _ _ _ _ (cellsErase_ne l a), cellsGet_erase]
    by_cases hb : b = a <;> simp [hb]

/-! ## The canonical form -/

theorem cellsWf_cons (cap a : Nat) (v : BitVec w) (rest : Cells w) :
    cellsWf cap ((a, v) :: rest) = true ↔
      v ≠ 0 ∧ a < cap ∧ (∀ c ∈ rest, a < c.1) ∧ cellsWf cap rest = true := by
  simp [cellsWf, and_assoc]

theorem cellsErase_wf (cap : Nat) (l : Cells w) (a : Nat) (h : cellsWf cap l = true) :
    cellsWf cap (cellsErase l a) = true := by
  induction l with
  | nil => simpa [cellsErase] using h
  | cons c rest ih =>
    obtain ⟨x, v⟩ := c
    rw [cellsWf_cons] at h
    obtain ⟨hv, hx, hlt, hr⟩ := h
    unfold cellsErase at ih ⊢
    rw [List.filter_cons]
    split
    · rw [cellsWf_cons]
      exact ⟨hv, hx, fun c hc => hlt c (List.mem_of_mem_filter hc), ih hr⟩
    · exact ih hr

theorem cellsInsert_mem (l : Cells w) (a : Nat) (v : BitVec w) (c : Nat × BitVec w)
    (h : c ∈ cellsInsert l a v) : c = (a, v) ∨ c ∈ l := by
  induction l with
  | nil => simpa [cellsInsert] using h
  | cons d rest ih =>
    obtain ⟨x, u⟩ := d
    unfold cellsInsert at h
    split at h
    · simpa using h
    · rcases List.mem_cons.mp h with rfl | h'
      · simp
      · rcases ih h' with h'' | h'' <;> simp [h'']

theorem cellsInsert_wf (cap : Nat) (l : Cells w) (a : Nat) (v : BitVec w) (h : cellsWf cap l = true)
    (hv : v ≠ 0) (ha : a < cap) (hne : ∀ c ∈ l, c.1 ≠ a) : cellsWf cap (cellsInsert l a v) = true := by
  induction l with
  | nil => simpa [cellsInsert, cellsWf, ha] using hv
  | cons c rest ih =>
    obtain ⟨x, u⟩ := c
    have hxa : x ≠ a := hne (x, u) (by simp)
    have h0 := h
    rw [cellsWf_cons] at h
    obtain ⟨hu, hx, hlt, hr⟩ := h
    unfold cellsInsert
    split
    · rename_i hax
      rw [cellsWf_cons]
      refine ⟨hv, ha, ?_, h0⟩
      intro c hc
      rcases List.mem_cons.mp hc with rfl | hc
      · exact hax
      · exact Nat.lt_trans hax (hlt c hc)
    · rename_i hax
      rw [cellsWf_cons]
      refine ⟨hu, hx, ?_, ih hr (fun c hc => hne c (by simp [hc]))⟩
      intro c hc
      rcases cellsInsert_mem rest a v c hc with rfl | hc
      · show x < a
        omega
      · exact hlt c hc

/-- A write to a cell that exists keeps the canonical form. -/
theorem cellsSet_wf (cap : Nat) (l : Cells w) (a : Nat) (v : BitVec w) (h : cellsWf cap l = true)
    (ha : a < cap) : cellsWf cap (cellsSet l a v) = true := by
  unfold cellsSet
  split
  · exact cellsErase_wf cap l a h
  · rename_i hv
    exact cellsInsert_wf cap _ a v (cellsErase_wf cap l a h) hv ha (cellsErase_ne l a)

/-! ## Banks -/

/-- What a bank cell keeps of a value: bit 0 in a bit bank, all of it in a word bank (R65). -/
def narrow (k : BankId) (v : Word) : Word :=
  match k with
  | .di => (v.setWidth 1).setWidth 16
  | .coil => (v.setWidth 1).setWidth 16
  | .ir => v
  | .hr => v

@[simp] theorem bankGet_set (b : Banks) (k k' : BankId) (a a' : Nat) (v : Word) :
    bankGet (bankSet b k a v) k' a' = if k' = k ∧ a' = a then narrow k v else bankGet b k' a' := by
  cases k <;> cases k' <;> simp [bankGet, bankSet, cellsGet_set, narrow] <;> split <;> rfl

/-- A 0 or a 1 is kept whole by a bit bank. -/
@[simp] theorem narrow_bitWord (k : BankId) (b : Bool) : narrow k (bitWord b) = bitWord b := by
  cases k <;> cases b <;> rfl

@[simp] theorem narrow_ir (v : Word) : narrow .ir v = v := rfl

@[simp] theorem narrow_hr (v : Word) : narrow .hr v = v := rfl

/-- A host value is kept whole. -/
@[simp] theorem narrow_hostValue (k : BankId) (v : Word) : narrow k (hostValue k v) = hostValue k v := by
  cases k <;> simp [hostValue]

theorem bankSet_wf (c : Cfg) (b : Banks) (k : BankId) (a : Nat) (v : Word) (h : banksWf c b = true)
    (ha : a < capOf c k) : banksWf c (bankSet b k a v) = true := by
  simp only [banksWf, Bool.and_eq_true] at h ⊢
  obtain ⟨⟨⟨h1, h2⟩, h3⟩, h4⟩ := h
  cases k <;> simp only [bankSet, h1, h2, h3, h4, true_and, and_true] <;>
    exact cellsSet_wf _ _ _ _ ‹_› ha

/-- Two canonical arrays that read the same everywhere are the same data. -/
theorem cellsWf_ext (cap : Nat) (l m : Cells w) (hl : cellsWf cap l = true) (hm : cellsWf cap m = true)
    (h : ∀ a, cellsGet l a = cellsGet m a) : l = m := by
  have low : ∀ (l : Cells w) (a : Nat), (∀ c ∈ l, a < c.1) → cellsGet l a = 0 := by
    intro l a hl
    induction l with
    | nil => rfl
    | cons c rest ih =>
      obtain ⟨x, v⟩ := c
      have hx : a < x := hl (x, v) (by simp)
      simp only [cellsGet, Nat.ne_of_gt hx, if_false]
      exact ih (fun c hc => hl c (by simp [hc]))
  induction l generalizing m with
  | nil =>
    cases m with
    | nil => rfl
    | cons d rest =>
      obtain ⟨y, v⟩ := d
      rw [cellsWf_cons] at hm
      have := h y
      simp [cellsGet] at this
      exact absurd this.symm hm.1
  | cons c rest ih =>
    obtain ⟨x, u⟩ := c
    rw [cellsWf_cons] at hl
    cases m with
    | nil =>
      have := h x
      simp [cellsGet] at this
      exact absurd this hl.1
    | cons d rest' =>
      obtain ⟨y, v⟩ := d
      rw [cellsWf_cons] at hm
      have hxy : x = y := by
        rcases Nat.lt_trichotomy x y with hlt | heq | hgt
        · have := h x
          simp only [cellsGet, if_true, Nat.ne_of_gt hlt, if_false] at this
          rw [low rest' x (fun c hc => Nat.lt_trans hlt (hm.2.2.1 c hc))] at this
          exact absurd this hl.1
        · exact heq
        · have := h y
          simp only [cellsGet, if_true, Nat.ne_of_gt hgt, if_false] at this
          rw [low rest y (fun c hc => Nat.lt_trans hgt (hl.2.2.1 c hc))] at this
          exact absurd this.symm hm.1
      subst hxy
      have huv : u = v := by simpa [cellsGet] using h x
      subst huv
      have : rest = rest' := by
        refine ih rest' hl.2.2.2 hm.2.2.2 (fun a => ?_)
        by_cases ha : x = a
        · subst ha
          rw [low rest x hl.2.2.1, low rest' x hm.2.2.1]
        · simpa [cellsGet, ha] using h a
      rw [this]

end Sys2Proof.Machine
end

