-- ==== Sys2Proof/Laws/Decode.lean ====
section
/-! SUPPORT. The laws of the byte order, of the frame lengths, and of the format selection. -/

-- One thread: the joined file is compiled under a memory limit that a thread for every theorem would exceed.
set_option Elab.async false

namespace Sys2Proof

/-! ## Byte order -/

@[simp] theorem be16_hi_lo (v : Word) : be16 (hiByte v) (loByte v) = v := by
  unfold be16 hiByte loByte
  apply BitVec.eq_of_toNat_eq
  simp only [BitVec.toNat_append, BitVec.extractLsb'_toNat]
  have := v.isLt
  rw [← Nat.shiftLeft_add_eq_or_of_lt (by omega), Nat.shiftLeft_eq, Nat.shiftRight_eq_div_pow]
  simp
  omega

@[simp] theorem hiByte_be16 (h l : Byte) : hiByte (be16 h l) = h := by
  unfold be16 hiByte
  apply BitVec.eq_of_toNat_eq
  have := h.isLt
  have := l.isLt
  simp only [BitVec.extractLsb'_toNat, BitVec.toNat_append]
  rw [← Nat.shiftLeft_add_eq_or_of_lt (by omega), Nat.shiftLeft_eq, Nat.shiftRight_eq_div_pow]
  omega

@[simp] theorem loByte_be16 (h l : Byte) : loByte (be16 h l) = l := by
  unfold be16 loByte
  apply BitVec.eq_of_toNat_eq
  have := h.isLt
  have := l.isLt
  simp only [BitVec.extractLsb'_toNat, BitVec.toNat_append]
  rw [← Nat.shiftLeft_add_eq_or_of_lt (by omega), Nat.shiftLeft_eq, Nat.shiftRight_eq_div_pow]
  omega

@[simp] theorem beBytes_length (v : Word) : (beBytes v).length = 2 := rfl

@[simp] theorem leBytes_length (v : Word) : (leBytes v).length = 2 := rfl

/-! ## The CRC engine as a fold -/

theorem crc16_append (p q : List Byte) : crc16 (p ++ q) = q.foldl crcByte (crc16 p) := List.foldl_append ..

@[simp] theorem withCrc_length (p : List Byte) : (withCrc p).length = p.length + 2 := by simp [withCrc]

@[simp] theorem withCrc_take (p : List Byte) : (withCrc p).take p.length = p := by simp [withCrc]

/-! ## Lengths (R92 to R94) -/

@[simp] theorem shortBody_length (id func : Byte) (addr arg : Word) : (shortBody id func addr arg).length = 6 := rfl

@[simp] theorem longBody_length (id func : Byte) (addr qty : Word) (data : List Byte) :
    (longBody id func addr qty data).length = 7 + data.length := by simp [longBody]; omega

/-! ## Format selection (R110, R142) -/

/-- The format of a function byte, and the bytes that select it. -/
theorem formatOf_cases (f : Byte) :
    (formatOf f = .rd ∧ (f = 1 ∨ f = 2 ∨ f = 3 ∨ f = 4)) ∨ (formatOf f = .ws ∧ (f = 5 ∨ f = 6)) ∨
    (formatOf f = .wm ∧ (f = 15 ∨ f = 16)) ∨ (formatOf f = .unknown ∧ standardCodes.contains f = false) := by
  revert f
  decide

theorem formatOf_unknown (f : Byte) : formatOf f = .unknown ↔ standardCodes.contains f = false := by
  revert f
  decide

/-! ## Frames that fit the buffer -/

theorem frameOf_eq (b : List Byte) (h : b.length ≤ Config.accDepth) : frameOf b = ⟨b, b.length, false⟩ := by
  simp [frameOf, List.take_of_length_le h, Nat.not_lt.mpr h]

end Sys2Proof
end

