-- ==== Sys2Proof/Laws/Ops.lean ====
section
/-! SUPPORT. What the shared operations of Machine/Ops.lean can do: the event multiset, `emit`, `MemRead` and `MemWrite`. -/

-- One thread: the joined file is compiled under a memory limit that a thread for every theorem would exceed.
set_option Elab.async false

namespace Sys2Proof.Machine

/-! ## The event multiset -/

theorem eventKey_inj (e f : CbEvent) (h : eventKey e = eventKey f) : e = f := by
  obtain ⟨b, k, a, v⟩ := e
  obtain ⟨b', k', a', v'⟩ := f
  have hv := v.isLt
  have hv' := v'.isLt
  cases b <;> cases b' <;> cases k <;> cases k' <;> simp only [eventKey, bankIndex, kindIndex] at h <;>
    first
    | (have ha : a = a' := by omega
       have hw : v = v' := BitVec.eq_of_toNat_eq (by omega)
       subst ha; subst hw; rfl)
    | (exfalso; omega)

theorem queueInsert_perm (e : CbEvent) (q : List CbEvent) : (queueInsert e q).Perm (e :: q) := by
  induction q with
  | nil => simp [queueInsert]
  | cons x rest ih =>
    unfold queueInsert
    split
    · exact List.Perm.refl _
    · exact (List.Perm.cons x ih).trans (List.Perm.swap e x rest)

@[simp] theorem queueInsert_length (e : CbEvent) (q : List CbEvent) : (queueInsert e q).length = q.length + 1 := by
  simpa using (queueInsert_perm e q).length_eq

theorem queueInsert_sorted (e : CbEvent) (q : List CbEvent) (h : queueSorted q = true) :
    queueSorted (queueInsert e q) = true := by
  induction q with
  | nil => simp [queueInsert, queueSorted]
  | cons x rest ih =>
    simp only [queueSorted, Bool.and_eq_true, List.all_eq_true, decide_eq_true_eq] at h
    unfold queueInsert
    split
    · rename_i hle
      simp only [queueSorted, Bool.and_eq_true, List.all_eq_true, decide_eq_true_eq, List.mem_cons]
      refine ⟨?_, h.1, h.2⟩
      rintro y (rfl | hy)
      · exact hle
      · exact Nat.le_trans hle (h.1 y hy)
    · rename_i hle
      simp only [queueSorted, Bool.and_eq_true, List.all_eq_true, decide_eq_true_eq]
      refine ⟨fun y hy => ?_, ih h.2⟩
      rcases List.mem_cons.mp ((queueInsert_perm e rest).mem_iff.mp hy) with rfl | hy
      · omega
      · exact h.1 y hy

theorem queueErase_sorted (e : CbEvent) (q : List CbEvent) (h : queueSorted q = true) :
    queueSorted (q.erase e) = true := by
  induction q with
  | nil => exact h
  | cons x rest ih =>
    simp only [queueSorted, Bool.and_eq_true, List.all_eq_true, decide_eq_true_eq] at h
    rw [List.erase_cons]
    split
    · exact h.2
    · simp only [queueSorted, Bool.and_eq_true, List.all_eq_true, decide_eq_true_eq]
      exact ⟨fun y hy => h.1 y (List.mem_of_mem_erase hy), ih h.2⟩

/-- Two sorted queues with the same events are the same data. -/
theorem queueSorted_ext (p q : List CbEvent) (hp : queueSorted p = true) (hq : queueSorted q = true)
    (h : p.Perm q) : p = q := by
  induction p generalizing q with
  | nil => exact (List.nil_perm.mp h).symm
  | cons x rest ih =>
    cases q with
    | nil => exact absurd h.length_eq (by simp)
    | cons y rest' =>
      have hp' := hp
      have hq' := hq
      simp only [queueSorted, Bool.and_eq_true, List.all_eq_true, decide_eq_true_eq] at hp hq
      have hxy : x = y := by
        apply eventKey_inj
        have h1 : eventKey y ≤ eventKey x := by
          rcases List.mem_cons.mp (h.mem_iff.mp (List.mem_cons_self ..)) with rfl | hx
          · exact Nat.le_refl _
          · exact hq.1 x hx
        have h2 : eventKey x ≤ eventKey y := by
          rcases List.mem_cons.mp (h.mem_iff.mpr (List.mem_cons_self ..)) with rfl | hy
          · exact Nat.le_refl _
          · exact hp.1 y hy
        exact Nat.le_antisymm h2 h1
      subst hxy
      rw [ih rest' hp.2 hq.2 (List.perm_cons x |>.mp h)]

/-! ## `emit` -/

/-- All that `emit` can do (R281, R314). -/
theorem emit_cases (e : CbEvent) (s : State) :
    (fits s.params.cbDepth s.cbQueue.length = true ∧ emit e s = { s with cbQueue := queueInsert e s.cbQueue }) ∨
    (fits s.params.cbDepth s.cbQueue.length = false ∧
      emit e s = { s with fault := { s.fault with cbOverflow := true } }) := by
  unfold emit
  cases h : fits s.params.cbDepth s.cbQueue.length <;> simp

@[simp] theorem fits_none (n : Nat) : fits none n = true := rfl

@[simp] theorem emit_cfg (e : CbEvent) (s : State) : (emit e s).cfg = s.cfg := by unfold emit; split <;> rfl
@[simp] theorem emit_params (e : CbEvent) (s : State) : (emit e s).params = s.params := by unfold emit; split <;> rfl
@[simp] theorem emit_banks (e : CbEvent) (s : State) : (emit e s).banks = s.banks := by unfold emit; split <;> rfl
@[simp] theorem emit_frState (e : CbEvent) (s : State) : (emit e s).frState = s.frState := by unfold emit; split <;> rfl
@[simp] theorem emit_pos (e : CbEvent) (s : State) : (emit e s).pos = s.pos := by unfold emit; split <;> rfl
@[simp] theorem emit_rxFifo (e : CbEvent) (s : State) : (emit e s).rxFifo = s.rxFifo := by unfold emit; split <;> rfl
@[simp] theorem emit_acc (e : CbEvent) (s : State) : (emit e s).acc = s.acc := by unfold emit; split <;> rfl
@[simp] theorem emit_idleUs (e : CbEvent) (s : State) : (emit e s).idleUs = s.idleUs := by unfold emit; split <;> rfl
@[simp] theorem emit_ticksHeld (e : CbEvent) (s : State) : (emit e s).ticksHeld = s.ticksHeld := by unfold emit; split <;> rfl
@[simp] theorem emit_frame (e : CbEvent) (s : State) : (emit e s).frame = s.frame := by unfold emit; split <;> rfl
@[simp] theorem emit_req (e : CbEvent) (s : State) : (emit e s).req = s.req := by unfold emit; split <;> rfl
@[simp] theorem emit_resp (e : CbEvent) (s : State) : (emit e s).resp = s.resp := by unfold emit; split <;> rfl
@[simp] theorem emit_dispOut (e : CbEvent) (s : State) : (emit e s).dispOut = s.dispOut := by unfold emit; split <;> rfl
@[simp] theorem emit_final (e : CbEvent) (s : State) : (emit e s).final = s.final := by unfold emit; split <;> rfl
@[simp] theorem emit_exitCause (e : CbEvent) (s : State) : (emit e s).exitCause = s.exitCause := by unfold emit; split <;> rfl
@[simp] theorem emit_txBuf (e : CbEvent) (s : State) : (emit e s).txBuf = s.txBuf := by unfold emit; split <;> rfl
@[simp] theorem emit_txPtr (e : CbEvent) (s : State) : (emit e s).txPtr = s.txPtr := by unfold emit; split <;> rfl
@[simp] theorem emit_settleUs (e : CbEvent) (s : State) : (emit e s).settleUs = s.settleUs := by unfold emit; split <;> rfl
@[simp] theorem emit_inReset (e : CbEvent) (s : State) : (emit e s).inReset = s.inReset := by unfold emit; split <;> rfl
@[simp] theorem emit_rxEnded (e : CbEvent) (s : State) : (emit e s).rxEnded = s.rxEnded := by unfold emit; split <;> rfl
@[simp] theorem emit_hostResp (e : CbEvent) (s : State) : (emit e s).hostResp = s.hostResp := by unfold emit; split <;> rfl
@[simp] theorem emit_quantum (e : CbEvent) (s : State) : (emit e s).quantum = s.quantum := by unfold emit; split <;> rfl
@[simp] theorem emit_sched (e : CbEvent) (s : State) : (emit e s).sched = s.sched := by unfold emit; split <;> rfl
@[simp] theorem emit_wire (e : CbEvent) (s : State) : (emit e s).wire = s.wire := by unfold emit; split <;> rfl
@[simp] theorem emit_delivered (e : CbEvent) (s : State) : (emit e s).delivered = s.delivered := by unfold emit; split <;> rfl
@[simp] theorem emit_rxOverrun (e : CbEvent) (s : State) : (emit e s).fault.rxOverrun = s.fault.rxOverrun := by
  unfold emit; split <;> rfl

/-! ## `emitIf` -/

@[simp] theorem emitIf_cfg (k : BankId) (kind : CbKind) (a : Nat) (v : Word) (s : State) :
    (emitIf k kind a v s).cfg = s.cfg := by unfold emitIf; split <;> simp
@[simp] theorem emitIf_params (k : BankId) (kind : CbKind) (a : Nat) (v : Word) (s : State) :
    (emitIf k kind a v s).params = s.params := by unfold emitIf; split <;> simp
@[simp] theorem emitIf_banks (k : BankId) (kind : CbKind) (a : Nat) (v : Word) (s : State) :
    (emitIf k kind a v s).banks = s.banks := by unfold emitIf; split <;> simp
@[simp] theorem emitIf_frState (k : BankId) (kind : CbKind) (a : Nat) (v : Word) (s : State) :
    (emitIf k kind a v s).frState = s.frState := by unfold emitIf; split <;> simp
@[simp] theorem emitIf_pos (k : BankId) (kind : CbKind) (a : Nat) (v : Word) (s : State) :
    (emitIf k kind a v s).pos = s.pos := by unfold emitIf; split <;> simp
@[simp] theorem emitIf_rxFifo (k : BankId) (kind : CbKind) (a : Nat) (v : Word) (s : State) :
    (emitIf k kind a v s).rxFifo = s.rxFifo := by unfold emitIf; split <;> simp
@[simp] theorem emitIf_acc (k : BankId) (kind : CbKind) (a : Nat) (v : Word) (s : State) :
    (emitIf k kind a v s).acc = s.acc := by unfold emitIf; split <;> simp
@[simp] theorem emitIf_idleUs (k : BankId) (kind : CbKind) (a : Nat) (v : Word) (s : State) :
    (emitIf k kind a v s).idleUs = s.idleUs := by unfold emitIf; split <;> simp
@[simp] theorem emitIf_ticksHeld (k : BankId) (kind : CbKind) (a : Nat) (v : Word) (s : State) :
    (emitIf k kind a v s).ticksHeld = s.ticksHeld := by unfold emitIf; split <;> simp
@[simp] theorem emitIf_frame (k : BankId) (kind : CbKind) (a : Nat) (v : Word) (s : State) :
    (emitIf k kind a v s).frame = s.frame := by unfold emitIf; split <;> simp
@[simp] theorem emitIf_req (k : BankId) (kind : CbKind) (a : Nat) (v : Word) (s : State) :
    (emitIf k kind a v s).req = s.req := by unfold emitIf; split <;> simp
@[simp] theorem emitIf_resp (k : BankId) (kind : CbKind) (a : Nat) (v : Word) (s : State) :
    (emitIf k kind a v s).resp = s.resp := by unfold emitIf; split <;> simp
@[simp] theorem emitIf_dispOut (k : BankId) (kind : CbKind) (a : Nat) (v : Word) (s : State) :
    (emitIf k kind a v s).dispOut = s.dispOut := by unfold emitIf; split <;> simp
@[simp] theorem emitIf_final (k : BankId) (kind : CbKind) (a : Nat) (v : Word) (s : State) :
    (emitIf k kind a v s).final = s.final := by unfold emitIf; split <;> simp
@[simp] theorem emitIf_exitCause (k : BankId) (kind : CbKind) (a : Nat) (v : Word) (s : State) :
    (emitIf k kind a v s).exitCause = s.exitCause := by unfold emitIf; split <;> simp
@[simp] theorem emitIf_txBuf (k : BankId) (kind : CbKind) (a : Nat) (v : Word) (s : State) :
    (emitIf k kind a v s).txBuf = s.txBuf := by unfold emitIf; split <;> simp
@[simp] theorem emitIf_txPtr (k : BankId) (kind : CbKind) (a : Nat) (v : Word) (s : State) :
    (emitIf k kind a v s).txPtr = s.txPtr := by unfold emitIf; split <;> simp
@[simp] theorem emitIf_settleUs (k : BankId) (kind : CbKind) (a : Nat) (v : Word) (s : State) :
    (emitIf k kind a v s).settleUs = s.settleUs := by unfold emitIf; split <;> simp
@[simp] theorem emitIf_inReset (k : BankId) (kind : CbKind) (a : Nat) (v : Word) (s : State) :
    (emitIf k kind a v s).inReset = s.inReset := by unfold emitIf; split <;> simp
@[simp] theorem emitIf_rxEnded (k : BankId) (kind : CbKind) (a : Nat) (v : Word) (s : State) :
    (emitIf k kind a v s).rxEnded = s.rxEnded := by unfold emitIf; split <;> simp
@[simp] theorem emitIf_hostResp (k : BankId) (kind : CbKind) (a : Nat) (v : Word) (s : State) :
    (emitIf k kind a v s).hostResp = s.hostResp := by unfold emitIf; split <;> simp
@[simp] theorem emitIf_quantum (k : BankId) (kind : CbKind) (a : Nat) (v : Word) (s : State) :
    (emitIf k kind a v s).quantum = s.quantum := by unfold emitIf; split <;> simp
@[simp] theorem emitIf_sched (k : BankId) (kind : CbKind) (a : Nat) (v : Word) (s : State) :
    (emitIf k kind a v s).sched = s.sched := by unfold emitIf; split <;> simp
@[simp] theorem emitIf_wire (k : BankId) (kind : CbKind) (a : Nat) (v : Word) (s : State) :
    (emitIf k kind a v s).wire = s.wire := by unfold emitIf; split <;> simp
@[simp] theorem emitIf_delivered (k : BankId) (kind : CbKind) (a : Nat) (v : Word) (s : State) :
    (emitIf k kind a v s).delivered = s.delivered := by unfold emitIf; split <;> simp
@[simp] theorem emitIf_rxOverrun (k : BankId) (kind : CbKind) (a : Nat) (v : Word) (s : State) :
    (emitIf k kind a v s).fault.rxOverrun = s.fault.rxOverrun := by unfold emitIf; split <;> simp

/-! ## `MemRead` -/

/-- All that `MemRead` can do (R63). -/
theorem memRead_cases (k : BankId) (a : Nat) (s : State) :
    (a < capOf s.cfg k ∧ memRead k a s = (s.cell k a, emitIf k .read a (s.cell k a) s)) ∨
    (capOf s.cfg k ≤ a ∧ memRead k a s = (0, s)) := by
  unfold memRead
  by_cases h : a < capOf s.cfg k
  · exact .inl ⟨h, if_pos h⟩
  · exact .inr ⟨Nat.le_of_not_lt h, if_neg h⟩

@[simp] theorem memRead_cfg (k : BankId) (a : Nat) (s : State) : (memRead k a s).2.cfg = s.cfg := by
  unfold memRead; split <;> simp
@[simp] theorem memRead_params (k : BankId) (a : Nat) (s : State) : (memRead k a s).2.params = s.params := by
  unfold memRead; split <;> simp
@[simp] theorem memRead_banks (k : BankId) (a : Nat) (s : State) : (memRead k a s).2.banks = s.banks := by
  unfold memRead; split <;> simp
@[simp] theorem memRead_frState (k : BankId) (a : Nat) (s : State) : (memRead k a s).2.frState = s.frState := by
  unfold memRead; split <;> simp
@[simp] theorem memRead_pos (k : BankId) (a : Nat) (s : State) : (memRead k a s).2.pos = s.pos := by
  unfold memRead; split <;> simp
@[simp] theorem memRead_rxFifo (k : BankId) (a : Nat) (s : State) : (memRead k a s).2.rxFifo = s.rxFifo := by
  unfold memRead; split <;> simp
@[simp] theorem memRead_acc (k : BankId) (a : Nat) (s : State) : (memRead k a s).2.acc = s.acc := by
  unfold memRead; split <;> simp
@[simp] theorem memRead_idleUs (k : BankId) (a : Nat) (s : State) : (memRead k a s).2.idleUs = s.idleUs := by
  unfold memRead; split <;> simp
@[simp] theorem memRead_ticksHeld (k : BankId) (a : Nat) (s : State) : (memRead k a s).2.ticksHeld = s.ticksHeld := by
  unfold memRead; split <;> simp
@[simp] theorem memRead_frame (k : BankId) (a : Nat) (s : State) : (memRead k a s).2.frame = s.frame := by
  unfold memRead; split <;> simp
@[simp] theorem memRead_req (k : BankId) (a : Nat) (s : State) : (memRead k a s).2.req = s.req := by
  unfold memRead; split <;> simp
@[simp] theorem memRead_resp (k : BankId) (a : Nat) (s : State) : (memRead k a s).2.resp = s.resp := by
  unfold memRead; split <;> simp
@[simp] theorem memRead_dispOut (k : BankId) (a : Nat) (s : State) : (memRead k a s).2.dispOut = s.dispOut := by
  unfold memRead; split <;> simp
@[simp] theorem memRead_final (k : BankId) (a : Nat) (s : State) : (memRead k a s).2.final = s.final := by
  unfold memRead; split <;> simp
@[simp] theorem memRead_exitCause (k : BankId) (a : Nat) (s : State) : (memRead k a s).2.exitCause = s.exitCause := by
  unfold memRead; split <;> simp
@[simp] theorem memRead_txBuf (k : BankId) (a : Nat) (s : State) : (memRead k a s).2.txBuf = s.txBuf := by
  unfold memRead; split <;> simp
@[simp] theorem memRead_txPtr (k : BankId) (a : Nat) (s : State) : (memRead k a s).2.txPtr = s.txPtr := by
  unfold memRead; split <;> simp
@[simp] theorem memRead_settleUs (k : BankId) (a : Nat) (s : State) : (memRead k a s).2.settleUs = s.settleUs := by
  unfold memRead; split <;> simp
@[simp] theorem memRead_inReset (k : BankId) (a : Nat) (s : State) : (memRead k a s).2.inReset = s.inReset := by
  unfold memRead; split <;> simp
@[simp] theorem memRead_rxEnded (k : BankId) (a : Nat) (s : State) : (memRead k a s).2.rxEnded = s.rxEnded := by
  unfold memRead; split <;> simp
@[simp] theorem memRead_hostResp (k : BankId) (a : Nat) (s : State) : (memRead k a s).2.hostResp = s.hostResp := by
  unfold memRead; split <;> simp
@[simp] theorem memRead_quantum (k : BankId) (a : Nat) (s : State) : (memRead k a s).2.quantum = s.quantum := by
  unfold memRead; split <;> simp
@[simp] theorem memRead_sched (k : BankId) (a : Nat) (s : State) : (memRead k a s).2.sched = s.sched := by
  unfold memRead; split <;> simp
@[simp] theorem memRead_wire (k : BankId) (a : Nat) (s : State) : (memRead k a s).2.wire = s.wire := by
  unfold memRead; split <;> simp
@[simp] theorem memRead_delivered (k : BankId) (a : Nat) (s : State) : (memRead k a s).2.delivered = s.delivered := by
  unfold memRead; split <;> simp
@[simp] theorem memRead_rxOverrun (k : BankId) (a : Nat) (s : State) :
    (memRead k a s).2.fault.rxOverrun = s.fault.rxOverrun := by unfold memRead; split <;> simp

/-! ## `MemWrite` -/

/-- All that `MemWrite` can do (R64). -/
theorem memWrite_cases (k : BankId) (a : Nat) (v : Word) (s : State) :
    (a < capOf s.cfg k ∧
      memWrite k a v s = (true, emitIf k .write a v { s with banks := bankSet s.banks k a v })) ∨
    (capOf s.cfg k ≤ a ∧ memWrite k a v s = (false, s)) := by
  unfold memWrite
  by_cases h : a < capOf s.cfg k
  · exact .inl ⟨h, if_pos h⟩
  · exact .inr ⟨Nat.le_of_not_lt h, if_neg h⟩

/-- The banks after a store that the capacity admits, and after one it refuses. -/
theorem memWrite_banks (k : BankId) (a : Nat) (v : Word) (s : State) :
    (memWrite k a v s).2.banks = if a < capOf s.cfg k then bankSet s.banks k a v else s.banks := by
  unfold memWrite; split <;> simp

@[simp] theorem memWrite_cfg (k : BankId) (a : Nat) (v : Word) (s : State) :
    (memWrite k a v s).2.cfg = s.cfg := by unfold memWrite; split <;> simp
@[simp] theorem memWrite_params (k : BankId) (a : Nat) (v : Word) (s : State) :
    (memWrite k a v s).2.params = s.params := by unfold memWrite; split <;> simp
@[simp] theorem memWrite_frState (k : BankId) (a : Nat) (v : Word) (s : State) :
    (memWrite k a v s).2.frState = s.frState := by unfold memWrite; split <;> simp
@[simp] theorem memWrite_pos (k : BankId) (a : Nat) (v : Word) (s : State) :
    (memWrite k a v s).2.pos = s.pos := by unfold memWrite; split <;> simp
@[simp] theorem memWrite_rxFifo (k : BankId) (a : Nat) (v : Word) (s : State) :
    (memWrite k a v s).2.rxFifo = s.rxFifo := by unfold memWrite; split <;> simp
@[simp] theorem memWrite_acc (k : BankId) (a : Nat) (v : Word) (s : State) :
    (memWrite k a v s).2.acc = s.acc := by unfold memWrite; split <;> simp
@[simp] theorem memWrite_idleUs (k : BankId) (a : Nat) (v : Word) (s : State) :
    (memWrite k a v s).2.idleUs = s.idleUs := by unfold memWrite; split <;> simp
@[simp] theorem memWrite_ticksHeld (k : BankId) (a : Nat) (v : Word) (s : State) :
    (memWrite k a v s).2.ticksHeld = s.ticksHeld := by unfold memWrite; split <;> simp
@[simp] theorem memWrite_frame (k : BankId) (a : Nat) (v : Word) (s : State) :
    (memWrite k a v s).2.frame = s.frame := by unfold memWrite; split <;> simp
@[simp] theorem memWrite_req (k : BankId) (a : Nat) (v : Word) (s : State) :
    (memWrite k a v s).2.req = s.req := by unfold memWrite; split <;> simp
@[simp] theorem memWrite_resp (k : BankId) (a : Nat) (v : Word) (s : State) :
    (memWrite k a v s).2.resp = s.resp := by unfold memWrite; split <;> simp
@[simp] theorem memWrite_dispOut (k : BankId) (a : Nat) (v : Word) (s : State) :
    (memWrite k a v s).2.dispOut = s.dispOut := by unfold memWrite; split <;> simp
@[simp] theorem memWrite_final (k : BankId) (a : Nat) (v : Word) (s : State) :
    (memWrite k a v s).2.final = s.final := by unfold memWrite; split <;> simp
@[simp] theorem memWrite_exitCause (k : BankId) (a : Nat) (v : Word) (s : State) :
    (memWrite k a v s).2.exitCause = s.exitCause := by unfold memWrite; split <;> simp
@[simp] theorem memWrite_txBuf (k : BankId) (a : Nat) (v : Word) (s : State) :
    (memWrite k a v s).2.txBuf = s.txBuf := by unfold memWrite; split <;> simp
@[simp] theorem memWrite_txPtr (k : BankId) (a : Nat) (v : Word) (s : State) :
    (memWrite k a v s).2.txPtr = s.txPtr := by unfold memWrite; split <;> simp
@[simp] theorem memWrite_settleUs (k : BankId) (a : Nat) (v : Word) (s : State) :
    (memWrite k a v s).2.settleUs = s.settleUs := by unfold memWrite; split <;> simp
@[simp] theorem memWrite_inReset (k : BankId) (a : Nat) (v : Word) (s : State) :
    (memWrite k a v s).2.inReset = s.inReset := by unfold memWrite; split <;> simp
@[simp] theorem memWrite_rxEnded (k : BankId) (a : Nat) (v : Word) (s : State) :
    (memWrite k a v s).2.rxEnded = s.rxEnded := by unfold memWrite; split <;> simp
@[simp] theorem memWrite_hostResp (k : BankId) (a : Nat) (v : Word) (s : State) :
    (memWrite k a v s).2.hostResp = s.hostResp := by unfold memWrite; split <;> simp
@[simp] theorem memWrite_quantum (k : BankId) (a : Nat) (v : Word) (s : State) :
    (memWrite k a v s).2.quantum = s.quantum := by unfold memWrite; split <;> simp
@[simp] theorem memWrite_sched (k : BankId) (a : Nat) (v : Word) (s : State) :
    (memWrite k a v s).2.sched = s.sched := by unfold memWrite; split <;> simp
@[simp] theorem memWrite_wire (k : BankId) (a : Nat) (v : Word) (s : State) :
    (memWrite k a v s).2.wire = s.wire := by unfold memWrite; split <;> simp
@[simp] theorem memWrite_delivered (k : BankId) (a : Nat) (v : Word) (s : State) :
    (memWrite k a v s).2.delivered = s.delivered := by unfold memWrite; split <;> simp
@[simp] theorem memWrite_rxOverrun (k : BankId) (a : Nat) (v : Word) (s : State) :
    (memWrite k a v s).2.fault.rxOverrun = s.fault.rxOverrun := by unfold memWrite; split <;> simp

/-- Every memory operation keeps the canonical form of the banks. -/
theorem memRead_banksWf (k : BankId) (a : Nat) (s : State) (h : banksWf s.cfg s.banks = true) :
    banksWf s.cfg (memRead k a s).2.banks = true := by simpa using h

theorem memWrite_banksWf (k : BankId) (a : Nat) (v : Word) (s : State) (h : banksWf s.cfg s.banks = true) :
    banksWf s.cfg (memWrite k a v s).2.banks = true := by
  rw [memWrite_banks]
  split
  · rename_i ha
    exact bankSet_wf s.cfg s.banks k a v h ha
  · exact h

/-- The banks of the reset state are in canonical form. -/
theorem reset_banksWf : banksWf State.reset.cfg State.reset.banks = true := rfl

end Sys2Proof.Machine
end

