-- ==== Sys2Proof/Laws/State.lean ====
section
/-! SUPPORT. What each named update of the state does to each field: one lemma a field, true by rfl. -/

-- One thread: the joined file is compiled under a memory limit that a thread for every theorem would exceed.
set_option Elab.async false

namespace Sys2Proof.Machine

variable (s : State)

/-! ## `scaffold` -/

@[simp] theorem scaffold_cfg (id func : Byte) : (scaffold id func s).cfg = s.cfg := rfl
@[simp] theorem scaffold_params (id func : Byte) : (scaffold id func s).params = s.params := rfl
@[simp] theorem scaffold_banks (id func : Byte) : (scaffold id func s).banks = s.banks := rfl
@[simp] theorem scaffold_cbQueue (id func : Byte) : (scaffold id func s).cbQueue = s.cbQueue := rfl
@[simp] theorem scaffold_fault (id func : Byte) : (scaffold id func s).fault = s.fault := rfl
@[simp] theorem scaffold_frState (id func : Byte) : (scaffold id func s).frState = s.frState := rfl
@[simp] theorem scaffold_pos (id func : Byte) : (scaffold id func s).pos = s.pos := rfl
@[simp] theorem scaffold_rxFifo (id func : Byte) : (scaffold id func s).rxFifo = s.rxFifo := rfl
@[simp] theorem scaffold_acc (id func : Byte) : (scaffold id func s).acc = s.acc := rfl
@[simp] theorem scaffold_idleUs (id func : Byte) : (scaffold id func s).idleUs = s.idleUs := rfl
@[simp] theorem scaffold_ticksHeld (id func : Byte) : (scaffold id func s).ticksHeld = s.ticksHeld := rfl
@[simp] theorem scaffold_frame (id func : Byte) : (scaffold id func s).frame = s.frame := rfl
@[simp] theorem scaffold_req (id func : Byte) : (scaffold id func s).req = s.req := rfl
@[simp] theorem scaffold_resp (id func : Byte) : (scaffold id func s).resp = ⟨id, func, 0, 0, [], false⟩ := rfl
@[simp] theorem scaffold_dispOut (id func : Byte) : (scaffold id func s).dispOut = s.dispOut := rfl
@[simp] theorem scaffold_final (id func : Byte) : (scaffold id func s).final = s.final := rfl
@[simp] theorem scaffold_exitCause (id func : Byte) : (scaffold id func s).exitCause = s.exitCause := rfl
@[simp] theorem scaffold_txBuf (id func : Byte) : (scaffold id func s).txBuf = s.txBuf := rfl
@[simp] theorem scaffold_txPtr (id func : Byte) : (scaffold id func s).txPtr = s.txPtr := rfl
@[simp] theorem scaffold_settleUs (id func : Byte) : (scaffold id func s).settleUs = s.settleUs := rfl
@[simp] theorem scaffold_inReset (id func : Byte) : (scaffold id func s).inReset = s.inReset := rfl
@[simp] theorem scaffold_rxEnded (id func : Byte) : (scaffold id func s).rxEnded = s.rxEnded := rfl
@[simp] theorem scaffold_hostResp (id func : Byte) : (scaffold id func s).hostResp = s.hostResp := rfl
@[simp] theorem scaffold_quantum (id func : Byte) : (scaffold id func s).quantum = s.quantum := rfl
@[simp] theorem scaffold_sched (id func : Byte) : (scaffold id func s).sched = s.sched := rfl
@[simp] theorem scaffold_wire (id func : Byte) : (scaffold id func s).wire = s.wire := rfl
@[simp] theorem scaffold_delivered (id func : Byte) : (scaffold id func s).delivered = s.delivered := rfl

/-! ## `setRead` -/

@[simp] theorem setRead_cfg (buf : List Byte) : (setRead buf s).cfg = s.cfg := rfl
@[simp] theorem setRead_params (buf : List Byte) : (setRead buf s).params = s.params := rfl
@[simp] theorem setRead_banks (buf : List Byte) : (setRead buf s).banks = s.banks := rfl
@[simp] theorem setRead_cbQueue (buf : List Byte) : (setRead buf s).cbQueue = s.cbQueue := rfl
@[simp] theorem setRead_fault (buf : List Byte) : (setRead buf s).fault = s.fault := rfl
@[simp] theorem setRead_frState (buf : List Byte) : (setRead buf s).frState = s.frState := rfl
@[simp] theorem setRead_pos (buf : List Byte) : (setRead buf s).pos = s.pos := rfl
@[simp] theorem setRead_rxFifo (buf : List Byte) : (setRead buf s).rxFifo = s.rxFifo := rfl
@[simp] theorem setRead_acc (buf : List Byte) : (setRead buf s).acc = s.acc := rfl
@[simp] theorem setRead_idleUs (buf : List Byte) : (setRead buf s).idleUs = s.idleUs := rfl
@[simp] theorem setRead_ticksHeld (buf : List Byte) : (setRead buf s).ticksHeld = s.ticksHeld := rfl
@[simp] theorem setRead_frame (buf : List Byte) : (setRead buf s).frame = s.frame := rfl
@[simp] theorem setRead_req (buf : List Byte) : (setRead buf s).req = s.req := rfl
@[simp] theorem setRead_resp (buf : List Byte) : (setRead buf s).resp = { s.resp with data := buf } := rfl
@[simp] theorem setRead_dispOut (buf : List Byte) : (setRead buf s).dispOut = s.dispOut := rfl
@[simp] theorem setRead_final (buf : List Byte) : (setRead buf s).final = s.final := rfl
@[simp] theorem setRead_exitCause (buf : List Byte) : (setRead buf s).exitCause = s.exitCause := rfl
@[simp] theorem setRead_txBuf (buf : List Byte) : (setRead buf s).txBuf = s.txBuf := rfl
@[simp] theorem setRead_txPtr (buf : List Byte) : (setRead buf s).txPtr = s.txPtr := rfl
@[simp] theorem setRead_settleUs (buf : List Byte) : (setRead buf s).settleUs = s.settleUs := rfl
@[simp] theorem setRead_inReset (buf : List Byte) : (setRead buf s).inReset = s.inReset := rfl
@[simp] theorem setRead_rxEnded (buf : List Byte) : (setRead buf s).rxEnded = s.rxEnded := rfl
@[simp] theorem setRead_hostResp (buf : List Byte) : (setRead buf s).hostResp = s.hostResp := rfl
@[simp] theorem setRead_quantum (buf : List Byte) : (setRead buf s).quantum = s.quantum := rfl
@[simp] theorem setRead_sched (buf : List Byte) : (setRead buf s).sched = s.sched := rfl
@[simp] theorem setRead_wire (buf : List Byte) : (setRead buf s).wire = s.wire := rfl
@[simp] theorem setRead_delivered (buf : List Byte) : (setRead buf s).delivered = s.delivered := rfl

/-! ## `setSingleWrite` -/

@[simp] theorem setSingleWrite_cfg (addr : Word) (data : List Byte) : (setSingleWrite addr data s).cfg = s.cfg := rfl
@[simp] theorem setSingleWrite_params (addr : Word) (data : List Byte) : (setSingleWrite addr data s).params = s.params := rfl
@[simp] theorem setSingleWrite_banks (addr : Word) (data : List Byte) : (setSingleWrite addr data s).banks = s.banks := rfl
@[simp] theorem setSingleWrite_cbQueue (addr : Word) (data : List Byte) : (setSingleWrite addr data s).cbQueue = s.cbQueue := rfl
@[simp] theorem setSingleWrite_fault (addr : Word) (data : List Byte) : (setSingleWrite addr data s).fault = s.fault := rfl
@[simp] theorem setSingleWrite_frState (addr : Word) (data : List Byte) : (setSingleWrite addr data s).frState = s.frState := rfl
@[simp] theorem setSingleWrite_pos (addr : Word) (data : List Byte) : (setSingleWrite addr data s).pos = s.pos := rfl
@[simp] theorem setSingleWrite_rxFifo (addr : Word) (data : List Byte) : (setSingleWrite addr data s).rxFifo = s.rxFifo := rfl
@[simp] theorem setSingleWrite_acc (addr : Word) (data : List Byte) : (setSingleWrite addr data s).acc = s.acc := rfl
@[simp] theorem setSingleWrite_idleUs (addr : Word) (data : List Byte) : (setSingleWrite addr data s).idleUs = s.idleUs := rfl
@[simp] theorem setSingleWrite_ticksHeld (addr : Word) (data : List Byte) : (setSingleWrite addr data s).ticksHeld = s.ticksHeld := rfl
@[simp] theorem setSingleWrite_frame (addr : Word) (data : List Byte) : (setSingleWrite addr data s).frame = s.frame := rfl
@[simp] theorem setSingleWrite_req (addr : Word) (data : List Byte) : (setSingleWrite addr data s).req = s.req := rfl
@[simp] theorem setSingleWrite_resp (addr : Word) (data : List Byte) : (setSingleWrite addr data s).resp = { s.resp with addr := addr, data := data } := rfl
@[simp] theorem setSingleWrite_dispOut (addr : Word) (data : List Byte) : (setSingleWrite addr data s).dispOut = s.dispOut := rfl
@[simp] theorem setSingleWrite_final (addr : Word) (data : List Byte) : (setSingleWrite addr data s).final = s.final := rfl
@[simp] theorem setSingleWrite_exitCause (addr : Word) (data : List Byte) : (setSingleWrite addr data s).exitCause = s.exitCause := rfl
@[simp] theorem setSingleWrite_txBuf (addr : Word) (data : List Byte) : (setSingleWrite addr data s).txBuf = s.txBuf := rfl
@[simp] theorem setSingleWrite_txPtr (addr : Word) (data : List Byte) : (setSingleWrite addr data s).txPtr = s.txPtr := rfl
@[simp] theorem setSingleWrite_settleUs (addr : Word) (data : List Byte) : (setSingleWrite addr data s).settleUs = s.settleUs := rfl
@[simp] theorem setSingleWrite_inReset (addr : Word) (data : List Byte) : (setSingleWrite addr data s).inReset = s.inReset := rfl
@[simp] theorem setSingleWrite_rxEnded (addr : Word) (data : List Byte) : (setSingleWrite addr data s).rxEnded = s.rxEnded := rfl
@[simp] theorem setSingleWrite_hostResp (addr : Word) (data : List Byte) : (setSingleWrite addr data s).hostResp = s.hostResp := rfl
@[simp] theorem setSingleWrite_quantum (addr : Word) (data : List Byte) : (setSingleWrite addr data s).quantum = s.quantum := rfl
@[simp] theorem setSingleWrite_sched (addr : Word) (data : List Byte) : (setSingleWrite addr data s).sched = s.sched := rfl
@[simp] theorem setSingleWrite_wire (addr : Word) (data : List Byte) : (setSingleWrite addr data s).wire = s.wire := rfl
@[simp] theorem setSingleWrite_delivered (addr : Word) (data : List Byte) : (setSingleWrite addr data s).delivered = s.delivered := rfl

/-! ## `setMultiWrite` -/

@[simp] theorem setMultiWrite_cfg (addr count : Word) : (setMultiWrite addr count s).cfg = s.cfg := rfl
@[simp] theorem setMultiWrite_params (addr count : Word) : (setMultiWrite addr count s).params = s.params := rfl
@[simp] theorem setMultiWrite_banks (addr count : Word) : (setMultiWrite addr count s).banks = s.banks := rfl
@[simp] theorem setMultiWrite_cbQueue (addr count : Word) : (setMultiWrite addr count s).cbQueue = s.cbQueue := rfl
@[simp] theorem setMultiWrite_fault (addr count : Word) : (setMultiWrite addr count s).fault = s.fault := rfl
@[simp] theorem setMultiWrite_frState (addr count : Word) : (setMultiWrite addr count s).frState = s.frState := rfl
@[simp] theorem setMultiWrite_pos (addr count : Word) : (setMultiWrite addr count s).pos = s.pos := rfl
@[simp] theorem setMultiWrite_rxFifo (addr count : Word) : (setMultiWrite addr count s).rxFifo = s.rxFifo := rfl
@[simp] theorem setMultiWrite_acc (addr count : Word) : (setMultiWrite addr count s).acc = s.acc := rfl
@[simp] theorem setMultiWrite_idleUs (addr count : Word) : (setMultiWrite addr count s).idleUs = s.idleUs := rfl
@[simp] theorem setMultiWrite_ticksHeld (addr count : Word) : (setMultiWrite addr count s).ticksHeld = s.ticksHeld := rfl
@[simp] theorem setMultiWrite_frame (addr count : Word) : (setMultiWrite addr count s).frame = s.frame := rfl
@[simp] theorem setMultiWrite_req (addr count : Word) : (setMultiWrite addr count s).req = s.req := rfl
@[simp] theorem setMultiWrite_resp (addr count : Word) : (setMultiWrite addr count s).resp = { s.resp with addr := addr, data := beBytes count } := rfl
@[simp] theorem setMultiWrite_dispOut (addr count : Word) : (setMultiWrite addr count s).dispOut = s.dispOut := rfl
@[simp] theorem setMultiWrite_final (addr count : Word) : (setMultiWrite addr count s).final = s.final := rfl
@[simp] theorem setMultiWrite_exitCause (addr count : Word) : (setMultiWrite addr count s).exitCause = s.exitCause := rfl
@[simp] theorem setMultiWrite_txBuf (addr count : Word) : (setMultiWrite addr count s).txBuf = s.txBuf := rfl
@[simp] theorem setMultiWrite_txPtr (addr count : Word) : (setMultiWrite addr count s).txPtr = s.txPtr := rfl
@[simp] theorem setMultiWrite_settleUs (addr count : Word) : (setMultiWrite addr count s).settleUs = s.settleUs := rfl
@[simp] theorem setMultiWrite_inReset (addr count : Word) : (setMultiWrite addr count s).inReset = s.inReset := rfl
@[simp] theorem setMultiWrite_rxEnded (addr count : Word) : (setMultiWrite addr count s).rxEnded = s.rxEnded := rfl
@[simp] theorem setMultiWrite_hostResp (addr count : Word) : (setMultiWrite addr count s).hostResp = s.hostResp := rfl
@[simp] theorem setMultiWrite_quantum (addr count : Word) : (setMultiWrite addr count s).quantum = s.quantum := rfl
@[simp] theorem setMultiWrite_sched (addr count : Word) : (setMultiWrite addr count s).sched = s.sched := rfl
@[simp] theorem setMultiWrite_wire (addr count : Word) : (setMultiWrite addr count s).wire = s.wire := rfl
@[simp] theorem setMultiWrite_delivered (addr count : Word) : (setMultiWrite addr count s).delivered = s.delivered := rfl

/-! ## `setUnanswered` -/

@[simp] theorem setUnanswered_cfg : (setUnanswered s).cfg = s.cfg := rfl
@[simp] theorem setUnanswered_params : (setUnanswered s).params = s.params := rfl
@[simp] theorem setUnanswered_banks : (setUnanswered s).banks = s.banks := rfl
@[simp] theorem setUnanswered_cbQueue : (setUnanswered s).cbQueue = s.cbQueue := rfl
@[simp] theorem setUnanswered_fault : (setUnanswered s).fault = s.fault := rfl
@[simp] theorem setUnanswered_frState : (setUnanswered s).frState = s.frState := rfl
@[simp] theorem setUnanswered_pos : (setUnanswered s).pos = s.pos := rfl
@[simp] theorem setUnanswered_rxFifo : (setUnanswered s).rxFifo = s.rxFifo := rfl
@[simp] theorem setUnanswered_acc : (setUnanswered s).acc = s.acc := rfl
@[simp] theorem setUnanswered_idleUs : (setUnanswered s).idleUs = s.idleUs := rfl
@[simp] theorem setUnanswered_ticksHeld : (setUnanswered s).ticksHeld = s.ticksHeld := rfl
@[simp] theorem setUnanswered_frame : (setUnanswered s).frame = s.frame := rfl
@[simp] theorem setUnanswered_req : (setUnanswered s).req = s.req := rfl
@[simp] theorem setUnanswered_resp : (setUnanswered s).resp = { s.resp with unanswered := true } := rfl
@[simp] theorem setUnanswered_dispOut : (setUnanswered s).dispOut = s.dispOut := rfl
@[simp] theorem setUnanswered_final : (setUnanswered s).final = s.final := rfl
@[simp] theorem setUnanswered_exitCause : (setUnanswered s).exitCause = s.exitCause := rfl
@[simp] theorem setUnanswered_txBuf : (setUnanswered s).txBuf = s.txBuf := rfl
@[simp] theorem setUnanswered_txPtr : (setUnanswered s).txPtr = s.txPtr := rfl
@[simp] theorem setUnanswered_settleUs : (setUnanswered s).settleUs = s.settleUs := rfl
@[simp] theorem setUnanswered_inReset : (setUnanswered s).inReset = s.inReset := rfl
@[simp] theorem setUnanswered_rxEnded : (setUnanswered s).rxEnded = s.rxEnded := rfl
@[simp] theorem setUnanswered_hostResp : (setUnanswered s).hostResp = s.hostResp := rfl
@[simp] theorem setUnanswered_quantum : (setUnanswered s).quantum = s.quantum := rfl
@[simp] theorem setUnanswered_sched : (setUnanswered s).sched = s.sched := rfl
@[simp] theorem setUnanswered_wire : (setUnanswered s).wire = s.wire := rfl
@[simp] theorem setUnanswered_delivered : (setUnanswered s).delivered = s.delivered := rfl

/-! ## `setError` -/

@[simp] theorem setError_cfg (code : Byte) : (setError code s).cfg = s.cfg := rfl
@[simp] theorem setError_params (code : Byte) : (setError code s).params = s.params := rfl
@[simp] theorem setError_banks (code : Byte) : (setError code s).banks = s.banks := rfl
@[simp] theorem setError_cbQueue (code : Byte) : (setError code s).cbQueue = s.cbQueue := rfl
@[simp] theorem setError_fault (code : Byte) : (setError code s).fault = s.fault := rfl
@[simp] theorem setError_frState (code : Byte) : (setError code s).frState = s.frState := rfl
@[simp] theorem setError_pos (code : Byte) : (setError code s).pos = s.pos := rfl
@[simp] theorem setError_rxFifo (code : Byte) : (setError code s).rxFifo = s.rxFifo := rfl
@[simp] theorem setError_acc (code : Byte) : (setError code s).acc = s.acc := rfl
@[simp] theorem setError_idleUs (code : Byte) : (setError code s).idleUs = s.idleUs := rfl
@[simp] theorem setError_ticksHeld (code : Byte) : (setError code s).ticksHeld = s.ticksHeld := rfl
@[simp] theorem setError_frame (code : Byte) : (setError code s).frame = s.frame := rfl
@[simp] theorem setError_req (code : Byte) : (setError code s).req = s.req := rfl
@[simp] theorem setError_resp (code : Byte) : (setError code s).resp = { s.resp with func := exceptionFunc s.resp.func, err := code } := rfl
@[simp] theorem setError_dispOut (code : Byte) : (setError code s).dispOut = s.dispOut := rfl
@[simp] theorem setError_final (code : Byte) : (setError code s).final = s.final := rfl
@[simp] theorem setError_exitCause (code : Byte) : (setError code s).exitCause = s.exitCause := rfl
@[simp] theorem setError_txBuf (code : Byte) : (setError code s).txBuf = s.txBuf := rfl
@[simp] theorem setError_txPtr (code : Byte) : (setError code s).txPtr = s.txPtr := rfl
@[simp] theorem setError_settleUs (code : Byte) : (setError code s).settleUs = s.settleUs := rfl
@[simp] theorem setError_inReset (code : Byte) : (setError code s).inReset = s.inReset := rfl
@[simp] theorem setError_rxEnded (code : Byte) : (setError code s).rxEnded = s.rxEnded := rfl
@[simp] theorem setError_hostResp (code : Byte) : (setError code s).hostResp = s.hostResp := rfl
@[simp] theorem setError_quantum (code : Byte) : (setError code s).quantum = s.quantum := rfl
@[simp] theorem setError_sched (code : Byte) : (setError code s).sched = s.sched := rfl
@[simp] theorem setError_wire (code : Byte) : (setError code s).wire = s.wire := rfl
@[simp] theorem setError_delivered (code : Byte) : (setError code s).delivered = s.delivered := rfl

/-! ## `suppress` -/

@[simp] theorem suppress_cfg (out : DispOut) : (suppress out s).cfg = s.cfg := rfl
@[simp] theorem suppress_params (out : DispOut) : (suppress out s).params = s.params := rfl
@[simp] theorem suppress_banks (out : DispOut) : (suppress out s).banks = s.banks := rfl
@[simp] theorem suppress_cbQueue (out : DispOut) : (suppress out s).cbQueue = s.cbQueue := rfl
@[simp] theorem suppress_fault (out : DispOut) : (suppress out s).fault = s.fault := rfl
@[simp] theorem suppress_frState (out : DispOut) : (suppress out s).frState = s.frState := rfl
@[simp] theorem suppress_pos (out : DispOut) : (suppress out s).pos = .encode := rfl
@[simp] theorem suppress_rxFifo (out : DispOut) : (suppress out s).rxFifo = s.rxFifo := rfl
@[simp] theorem suppress_acc (out : DispOut) : (suppress out s).acc = s.acc := rfl
@[simp] theorem suppress_idleUs (out : DispOut) : (suppress out s).idleUs = s.idleUs := rfl
@[simp] theorem suppress_ticksHeld (out : DispOut) : (suppress out s).ticksHeld = s.ticksHeld := rfl
@[simp] theorem suppress_frame (out : DispOut) : (suppress out s).frame = s.frame := rfl
@[simp] theorem suppress_req (out : DispOut) : (suppress out s).req = s.req := rfl
@[simp] theorem suppress_resp (out : DispOut) : (suppress out s).resp = { s.resp with unanswered := true } := rfl
@[simp] theorem suppress_dispOut (out : DispOut) : (suppress out s).dispOut = out := rfl
@[simp] theorem suppress_final (out : DispOut) : (suppress out s).final = s.final := rfl
@[simp] theorem suppress_exitCause (out : DispOut) : (suppress out s).exitCause = s.exitCause := rfl
@[simp] theorem suppress_txBuf (out : DispOut) : (suppress out s).txBuf = s.txBuf := rfl
@[simp] theorem suppress_txPtr (out : DispOut) : (suppress out s).txPtr = s.txPtr := rfl
@[simp] theorem suppress_settleUs (out : DispOut) : (suppress out s).settleUs = s.settleUs := rfl
@[simp] theorem suppress_inReset (out : DispOut) : (suppress out s).inReset = s.inReset := rfl
@[simp] theorem suppress_rxEnded (out : DispOut) : (suppress out s).rxEnded = s.rxEnded := rfl
@[simp] theorem suppress_hostResp (out : DispOut) : (suppress out s).hostResp = s.hostResp := rfl
@[simp] theorem suppress_quantum (out : DispOut) : (suppress out s).quantum = s.quantum := rfl
@[simp] theorem suppress_sched (out : DispOut) : (suppress out s).sched = s.sched := rfl
@[simp] theorem suppress_wire (out : DispOut) : (suppress out s).wire = s.wire := rfl
@[simp] theorem suppress_delivered (out : DispOut) : (suppress out s).delivered = s.delivered := rfl

/-! ## `raise` -/

@[simp] theorem raise_cfg (code : Byte) : (raise code s).cfg = s.cfg := rfl
@[simp] theorem raise_params (code : Byte) : (raise code s).params = s.params := rfl
@[simp] theorem raise_banks (code : Byte) : (raise code s).banks = s.banks := rfl
@[simp] theorem raise_cbQueue (code : Byte) : (raise code s).cbQueue = s.cbQueue := rfl
@[simp] theorem raise_fault (code : Byte) : (raise code s).fault = s.fault := rfl
@[simp] theorem raise_frState (code : Byte) : (raise code s).frState = s.frState := rfl
@[simp] theorem raise_pos (code : Byte) : (raise code s).pos = .finish := rfl
@[simp] theorem raise_rxFifo (code : Byte) : (raise code s).rxFifo = s.rxFifo := rfl
@[simp] theorem raise_acc (code : Byte) : (raise code s).acc = s.acc := rfl
@[simp] theorem raise_idleUs (code : Byte) : (raise code s).idleUs = s.idleUs := rfl
@[simp] theorem raise_ticksHeld (code : Byte) : (raise code s).ticksHeld = s.ticksHeld := rfl
@[simp] theorem raise_frame (code : Byte) : (raise code s).frame = s.frame := rfl
@[simp] theorem raise_req (code : Byte) : (raise code s).req = s.req := rfl
@[simp] theorem raise_resp (code : Byte) : (raise code s).resp = { s.resp with func := exceptionFunc s.resp.func, err := code } := rfl
@[simp] theorem raise_dispOut (code : Byte) : (raise code s).dispOut = s.dispOut := rfl
@[simp] theorem raise_final (code : Byte) : (raise code s).final = s.final := rfl
@[simp] theorem raise_exitCause (code : Byte) : (raise code s).exitCause = s.exitCause := rfl
@[simp] theorem raise_txBuf (code : Byte) : (raise code s).txBuf = s.txBuf := rfl
@[simp] theorem raise_txPtr (code : Byte) : (raise code s).txPtr = s.txPtr := rfl
@[simp] theorem raise_settleUs (code : Byte) : (raise code s).settleUs = s.settleUs := rfl
@[simp] theorem raise_inReset (code : Byte) : (raise code s).inReset = s.inReset := rfl
@[simp] theorem raise_rxEnded (code : Byte) : (raise code s).rxEnded = s.rxEnded := rfl
@[simp] theorem raise_hostResp (code : Byte) : (raise code s).hostResp = s.hostResp := rfl
@[simp] theorem raise_quantum (code : Byte) : (raise code s).quantum = s.quantum := rfl
@[simp] theorem raise_sched (code : Byte) : (raise code s).sched = s.sched := rfl
@[simp] theorem raise_wire (code : Byte) : (raise code s).wire = s.wire := rfl
@[simp] theorem raise_delivered (code : Byte) : (raise code s).delivered = s.delivered := rfl

/-! ## `halt` -/

@[simp] theorem halt_cfg (cause : ExitCause) : (halt cause s).cfg = s.cfg := rfl
@[simp] theorem halt_params (cause : ExitCause) : (halt cause s).params = s.params := rfl
@[simp] theorem halt_banks (cause : ExitCause) : (halt cause s).banks = s.banks := rfl
@[simp] theorem halt_cbQueue (cause : ExitCause) : (halt cause s).cbQueue = s.cbQueue := rfl
@[simp] theorem halt_fault (cause : ExitCause) : (halt cause s).fault = s.fault := rfl
@[simp] theorem halt_frState (cause : ExitCause) : (halt cause s).frState = .halted := rfl
@[simp] theorem halt_pos (cause : ExitCause) : (halt cause s).pos = s.pos := rfl
@[simp] theorem halt_rxFifo (cause : ExitCause) : (halt cause s).rxFifo = [] := rfl
@[simp] theorem halt_acc (cause : ExitCause) : (halt cause s).acc = s.acc := rfl
@[simp] theorem halt_idleUs (cause : ExitCause) : (halt cause s).idleUs = s.idleUs := rfl
@[simp] theorem halt_ticksHeld (cause : ExitCause) : (halt cause s).ticksHeld = 0 := rfl
@[simp] theorem halt_frame (cause : ExitCause) : (halt cause s).frame = s.frame := rfl
@[simp] theorem halt_req (cause : ExitCause) : (halt cause s).req = s.req := rfl
@[simp] theorem halt_resp (cause : ExitCause) : (halt cause s).resp = s.resp := rfl
@[simp] theorem halt_dispOut (cause : ExitCause) : (halt cause s).dispOut = s.dispOut := rfl
@[simp] theorem halt_final (cause : ExitCause) : (halt cause s).final = s.final := rfl
@[simp] theorem halt_exitCause (cause : ExitCause) : (halt cause s).exitCause = firstCause s.exitCause cause := rfl
@[simp] theorem halt_txBuf (cause : ExitCause) : (halt cause s).txBuf = s.txBuf := rfl
@[simp] theorem halt_txPtr (cause : ExitCause) : (halt cause s).txPtr = s.txPtr := rfl
@[simp] theorem halt_settleUs (cause : ExitCause) : (halt cause s).settleUs = s.settleUs := rfl
@[simp] theorem halt_inReset (cause : ExitCause) : (halt cause s).inReset = s.inReset := rfl
@[simp] theorem halt_rxEnded (cause : ExitCause) : (halt cause s).rxEnded = s.rxEnded := rfl
@[simp] theorem halt_hostResp (cause : ExitCause) : (halt cause s).hostResp = s.hostResp := rfl
@[simp] theorem halt_quantum (cause : ExitCause) : (halt cause s).quantum = s.quantum := rfl
@[simp] theorem halt_sched (cause : ExitCause) : (halt cause s).sched = s.sched := rfl
@[simp] theorem halt_wire (cause : ExitCause) : (halt cause s).wire = s.wire := rfl
@[simp] theorem halt_delivered (cause : ExitCause) : (halt cause s).delivered = s.delivered := rfl

/-! ## `enterReceive` -/

@[simp] theorem enterReceive_cfg : (enterReceive s).cfg = s.cfg := rfl
@[simp] theorem enterReceive_params : (enterReceive s).params = s.params := rfl
@[simp] theorem enterReceive_banks : (enterReceive s).banks = s.banks := rfl
@[simp] theorem enterReceive_cbQueue : (enterReceive s).cbQueue = s.cbQueue := rfl
@[simp] theorem enterReceive_fault : (enterReceive s).fault = s.fault := rfl
@[simp] theorem enterReceive_frState : (enterReceive s).frState = .receive := rfl
@[simp] theorem enterReceive_pos : (enterReceive s).pos = s.pos := rfl
@[simp] theorem enterReceive_rxFifo : (enterReceive s).rxFifo = s.rxFifo := rfl
@[simp] theorem enterReceive_acc : (enterReceive s).acc = emptyAcc := rfl
@[simp] theorem enterReceive_idleUs : (enterReceive s).idleUs = 0 := rfl
@[simp] theorem enterReceive_ticksHeld : (enterReceive s).ticksHeld = 0 := rfl
@[simp] theorem enterReceive_frame : (enterReceive s).frame = s.frame := rfl
@[simp] theorem enterReceive_req : (enterReceive s).req = s.req := rfl
@[simp] theorem enterReceive_resp : (enterReceive s).resp = s.resp := rfl
@[simp] theorem enterReceive_dispOut : (enterReceive s).dispOut = s.dispOut := rfl
@[simp] theorem enterReceive_final : (enterReceive s).final = s.final := rfl
@[simp] theorem enterReceive_exitCause : (enterReceive s).exitCause = s.exitCause := rfl
@[simp] theorem enterReceive_txBuf : (enterReceive s).txBuf = s.txBuf := rfl
@[simp] theorem enterReceive_txPtr : (enterReceive s).txPtr = s.txPtr := rfl
@[simp] theorem enterReceive_settleUs : (enterReceive s).settleUs = s.settleUs := rfl
@[simp] theorem enterReceive_inReset : (enterReceive s).inReset = s.inReset := rfl
@[simp] theorem enterReceive_rxEnded : (enterReceive s).rxEnded = s.rxEnded := rfl
@[simp] theorem enterReceive_hostResp : (enterReceive s).hostResp = s.hostResp := rfl
@[simp] theorem enterReceive_quantum : (enterReceive s).quantum = s.quantum := rfl
@[simp] theorem enterReceive_sched : (enterReceive s).sched = s.sched := rfl
@[simp] theorem enterReceive_wire : (enterReceive s).wire = s.wire := rfl
@[simp] theorem enterReceive_delivered : (enterReceive s).delivered = s.delivered := rfl

/-! ## `takeFrame` -/

@[simp] theorem takeFrame_cfg : (takeFrame s).cfg = s.cfg := rfl
@[simp] theorem takeFrame_params : (takeFrame s).params = s.params := rfl
@[simp] theorem takeFrame_banks : (takeFrame s).banks = s.banks := rfl
@[simp] theorem takeFrame_cbQueue : (takeFrame s).cbQueue = s.cbQueue := rfl
@[simp] theorem takeFrame_fault : (takeFrame s).fault = s.fault := rfl
@[simp] theorem takeFrame_frState : (takeFrame s).frState = .process := rfl
@[simp] theorem takeFrame_pos : (takeFrame s).pos = .decode := rfl
@[simp] theorem takeFrame_rxFifo : (takeFrame s).rxFifo = s.rxFifo := rfl
@[simp] theorem takeFrame_acc : (takeFrame s).acc = emptyAcc := rfl
@[simp] theorem takeFrame_idleUs : (takeFrame s).idleUs = s.idleUs := rfl
@[simp] theorem takeFrame_ticksHeld : (takeFrame s).ticksHeld = 0 := rfl
@[simp] theorem takeFrame_frame : (takeFrame s).frame = ⟨s.acc.bytes.take (min s.acc.len Config.accDepth), s.acc.len, s.acc.ovf⟩ := rfl
@[simp] theorem takeFrame_req : (takeFrame s).req = s.req := rfl
@[simp] theorem takeFrame_resp : (takeFrame s).resp = s.resp := rfl
@[simp] theorem takeFrame_dispOut : (takeFrame s).dispOut = s.dispOut := rfl
@[simp] theorem takeFrame_final : (takeFrame s).final = s.final := rfl
@[simp] theorem takeFrame_exitCause : (takeFrame s).exitCause = s.exitCause := rfl
@[simp] theorem takeFrame_txBuf : (takeFrame s).txBuf = s.txBuf := rfl
@[simp] theorem takeFrame_txPtr : (takeFrame s).txPtr = s.txPtr := rfl
@[simp] theorem takeFrame_settleUs : (takeFrame s).settleUs = s.settleUs := rfl
@[simp] theorem takeFrame_inReset : (takeFrame s).inReset = s.inReset := rfl
@[simp] theorem takeFrame_rxEnded : (takeFrame s).rxEnded = s.rxEnded := rfl
@[simp] theorem takeFrame_hostResp : (takeFrame s).hostResp = s.hostResp := rfl
@[simp] theorem takeFrame_quantum : (takeFrame s).quantum = s.quantum := rfl
@[simp] theorem takeFrame_sched : (takeFrame s).sched = s.sched := rfl
@[simp] theorem takeFrame_wire : (takeFrame s).wire = s.wire := rfl
@[simp] theorem takeFrame_delivered : (takeFrame s).delivered = s.delivered := rfl

/-! ## `blockReset` -/

@[simp] theorem blockReset_cfg (level : Bool) : (blockReset level s).cfg = s.cfg := rfl
@[simp] theorem blockReset_params (level : Bool) : (blockReset level s).params = s.params := rfl
@[simp] theorem blockReset_banks (level : Bool) : (blockReset level s).banks = State.reset.banks := rfl
@[simp] theorem blockReset_cbQueue (level : Bool) : (blockReset level s).cbQueue = State.reset.cbQueue := rfl
@[simp] theorem blockReset_fault (level : Bool) : (blockReset level s).fault = State.reset.fault := rfl
@[simp] theorem blockReset_frState (level : Bool) : (blockReset level s).frState = State.reset.frState := rfl
@[simp] theorem blockReset_pos (level : Bool) : (blockReset level s).pos = State.reset.pos := rfl
@[simp] theorem blockReset_rxFifo (level : Bool) : (blockReset level s).rxFifo = State.reset.rxFifo := rfl
@[simp] theorem blockReset_acc (level : Bool) : (blockReset level s).acc = State.reset.acc := rfl
@[simp] theorem blockReset_idleUs (level : Bool) : (blockReset level s).idleUs = State.reset.idleUs := rfl
@[simp] theorem blockReset_ticksHeld (level : Bool) : (blockReset level s).ticksHeld = State.reset.ticksHeld := rfl
@[simp] theorem blockReset_frame (level : Bool) : (blockReset level s).frame = State.reset.frame := rfl
@[simp] theorem blockReset_req (level : Bool) : (blockReset level s).req = State.reset.req := rfl
@[simp] theorem blockReset_resp (level : Bool) : (blockReset level s).resp = State.reset.resp := rfl
@[simp] theorem blockReset_dispOut (level : Bool) : (blockReset level s).dispOut = State.reset.dispOut := rfl
@[simp] theorem blockReset_final (level : Bool) : (blockReset level s).final = State.reset.final := rfl
@[simp] theorem blockReset_exitCause (level : Bool) : (blockReset level s).exitCause = State.reset.exitCause := rfl
@[simp] theorem blockReset_txBuf (level : Bool) : (blockReset level s).txBuf = State.reset.txBuf := rfl
@[simp] theorem blockReset_txPtr (level : Bool) : (blockReset level s).txPtr = State.reset.txPtr := rfl
@[simp] theorem blockReset_settleUs (level : Bool) : (blockReset level s).settleUs = State.reset.settleUs := rfl
@[simp] theorem blockReset_inReset (level : Bool) : (blockReset level s).inReset = level := rfl
@[simp] theorem blockReset_rxEnded (level : Bool) : (blockReset level s).rxEnded = State.reset.rxEnded := rfl
@[simp] theorem blockReset_hostResp (level : Bool) : (blockReset level s).hostResp = State.reset.hostResp := rfl
@[simp] theorem blockReset_quantum (level : Bool) : (blockReset level s).quantum = State.reset.quantum := rfl
@[simp] theorem blockReset_sched (level : Bool) : (blockReset level s).sched = s.sched := rfl
@[simp] theorem blockReset_wire (level : Bool) : (blockReset level s).wire = s.wire := rfl
@[simp] theorem blockReset_delivered (level : Bool) : (blockReset level s).delivered = s.delivered := rfl

/-! ## `setPos` -/

@[simp] theorem setPos_cfg (p : Pos) : (s.setPos p).cfg = s.cfg := rfl
@[simp] theorem setPos_params (p : Pos) : (s.setPos p).params = s.params := rfl
@[simp] theorem setPos_banks (p : Pos) : (s.setPos p).banks = s.banks := rfl
@[simp] theorem setPos_cbQueue (p : Pos) : (s.setPos p).cbQueue = s.cbQueue := rfl
@[simp] theorem setPos_fault (p : Pos) : (s.setPos p).fault = s.fault := rfl
@[simp] theorem setPos_frState (p : Pos) : (s.setPos p).frState = s.frState := rfl
@[simp] theorem setPos_pos (p : Pos) : (s.setPos p).pos = p := rfl
@[simp] theorem setPos_rxFifo (p : Pos) : (s.setPos p).rxFifo = s.rxFifo := rfl
@[simp] theorem setPos_acc (p : Pos) : (s.setPos p).acc = s.acc := rfl
@[simp] theorem setPos_idleUs (p : Pos) : (s.setPos p).idleUs = s.idleUs := rfl
@[simp] theorem setPos_ticksHeld (p : Pos) : (s.setPos p).ticksHeld = s.ticksHeld := rfl
@[simp] theorem setPos_frame (p : Pos) : (s.setPos p).frame = s.frame := rfl
@[simp] theorem setPos_req (p : Pos) : (s.setPos p).req = s.req := rfl
@[simp] theorem setPos_resp (p : Pos) : (s.setPos p).resp = s.resp := rfl
@[simp] theorem setPos_dispOut (p : Pos) : (s.setPos p).dispOut = s.dispOut := rfl
@[simp] theorem setPos_final (p : Pos) : (s.setPos p).final = s.final := rfl
@[simp] theorem setPos_exitCause (p : Pos) : (s.setPos p).exitCause = s.exitCause := rfl
@[simp] theorem setPos_txBuf (p : Pos) : (s.setPos p).txBuf = s.txBuf := rfl
@[simp] theorem setPos_txPtr (p : Pos) : (s.setPos p).txPtr = s.txPtr := rfl
@[simp] theorem setPos_settleUs (p : Pos) : (s.setPos p).settleUs = s.settleUs := rfl
@[simp] theorem setPos_inReset (p : Pos) : (s.setPos p).inReset = s.inReset := rfl
@[simp] theorem setPos_rxEnded (p : Pos) : (s.setPos p).rxEnded = s.rxEnded := rfl
@[simp] theorem setPos_hostResp (p : Pos) : (s.setPos p).hostResp = s.hostResp := rfl
@[simp] theorem setPos_quantum (p : Pos) : (s.setPos p).quantum = s.quantum := rfl
@[simp] theorem setPos_sched (p : Pos) : (s.setPos p).sched = s.sched := rfl
@[simp] theorem setPos_wire (p : Pos) : (s.setPos p).wire = s.wire := rfl
@[simp] theorem setPos_delivered (p : Pos) : (s.setPos p).delivered = s.delivered := rfl

/-! ## `setHostResp` -/

@[simp] theorem setHostResp_cfg (r : HostResp) : (s.setHostResp r).cfg = s.cfg := rfl
@[simp] theorem setHostResp_params (r : HostResp) : (s.setHostResp r).params = s.params := rfl
@[simp] theorem setHostResp_banks (r : HostResp) : (s.setHostResp r).banks = s.banks := rfl
@[simp] theorem setHostResp_cbQueue (r : HostResp) : (s.setHostResp r).cbQueue = s.cbQueue := rfl
@[simp] theorem setHostResp_fault (r : HostResp) : (s.setHostResp r).fault = s.fault := rfl
@[simp] theorem setHostResp_frState (r : HostResp) : (s.setHostResp r).frState = s.frState := rfl
@[simp] theorem setHostResp_pos (r : HostResp) : (s.setHostResp r).pos = s.pos := rfl
@[simp] theorem setHostResp_rxFifo (r : HostResp) : (s.setHostResp r).rxFifo = s.rxFifo := rfl
@[simp] theorem setHostResp_acc (r : HostResp) : (s.setHostResp r).acc = s.acc := rfl
@[simp] theorem setHostResp_idleUs (r : HostResp) : (s.setHostResp r).idleUs = s.idleUs := rfl
@[simp] theorem setHostResp_ticksHeld (r : HostResp) : (s.setHostResp r).ticksHeld = s.ticksHeld := rfl
@[simp] theorem setHostResp_frame (r : HostResp) : (s.setHostResp r).frame = s.frame := rfl
@[simp] theorem setHostResp_req (r : HostResp) : (s.setHostResp r).req = s.req := rfl
@[simp] theorem setHostResp_resp (r : HostResp) : (s.setHostResp r).resp = s.resp := rfl
@[simp] theorem setHostResp_dispOut (r : HostResp) : (s.setHostResp r).dispOut = s.dispOut := rfl
@[simp] theorem setHostResp_final (r : HostResp) : (s.setHostResp r).final = s.final := rfl
@[simp] theorem setHostResp_exitCause (r : HostResp) : (s.setHostResp r).exitCause = s.exitCause := rfl
@[simp] theorem setHostResp_txBuf (r : HostResp) : (s.setHostResp r).txBuf = s.txBuf := rfl
@[simp] theorem setHostResp_txPtr (r : HostResp) : (s.setHostResp r).txPtr = s.txPtr := rfl
@[simp] theorem setHostResp_settleUs (r : HostResp) : (s.setHostResp r).settleUs = s.settleUs := rfl
@[simp] theorem setHostResp_inReset (r : HostResp) : (s.setHostResp r).inReset = s.inReset := rfl
@[simp] theorem setHostResp_rxEnded (r : HostResp) : (s.setHostResp r).rxEnded = s.rxEnded := rfl
@[simp] theorem setHostResp_hostResp (r : HostResp) : (s.setHostResp r).hostResp = some r := rfl
@[simp] theorem setHostResp_quantum (r : HostResp) : (s.setHostResp r).quantum = s.quantum := rfl
@[simp] theorem setHostResp_sched (r : HostResp) : (s.setHostResp r).sched = s.sched := rfl
@[simp] theorem setHostResp_wire (r : HostResp) : (s.setHostResp r).wire = s.wire := rfl
@[simp] theorem setHostResp_delivered (r : HostResp) : (s.setHostResp r).delivered = s.delivered := rfl

/-! ## `offerAdu` -/

@[simp] theorem offerAdu_cfg (t : List Byte) : (offerAdu t s).cfg = s.cfg := rfl
@[simp] theorem offerAdu_params (t : List Byte) : (offerAdu t s).params = s.params := rfl
@[simp] theorem offerAdu_banks (t : List Byte) : (offerAdu t s).banks = s.banks := rfl
@[simp] theorem offerAdu_cbQueue (t : List Byte) : (offerAdu t s).cbQueue = s.cbQueue := rfl
@[simp] theorem offerAdu_fault (t : List Byte) : (offerAdu t s).fault = s.fault := rfl
@[simp] theorem offerAdu_frState (t : List Byte) : (offerAdu t s).frState = .transmit := rfl
@[simp] theorem offerAdu_pos (t : List Byte) : (offerAdu t s).pos = s.pos := rfl
@[simp] theorem offerAdu_rxFifo (t : List Byte) : (offerAdu t s).rxFifo = s.rxFifo := rfl
@[simp] theorem offerAdu_acc (t : List Byte) : (offerAdu t s).acc = s.acc := rfl
@[simp] theorem offerAdu_idleUs (t : List Byte) : (offerAdu t s).idleUs = s.idleUs := rfl
@[simp] theorem offerAdu_ticksHeld (t : List Byte) : (offerAdu t s).ticksHeld = s.ticksHeld := rfl
@[simp] theorem offerAdu_frame (t : List Byte) : (offerAdu t s).frame = s.frame := rfl
@[simp] theorem offerAdu_req (t : List Byte) : (offerAdu t s).req = s.req := rfl
@[simp] theorem offerAdu_resp (t : List Byte) : (offerAdu t s).resp = s.resp := rfl
@[simp] theorem offerAdu_dispOut (t : List Byte) : (offerAdu t s).dispOut = s.dispOut := rfl
@[simp] theorem offerAdu_final (t : List Byte) : (offerAdu t s).final = s.final := rfl
@[simp] theorem offerAdu_exitCause (t : List Byte) : (offerAdu t s).exitCause = s.exitCause := rfl
@[simp] theorem offerAdu_txBuf (t : List Byte) : (offerAdu t s).txBuf = t := rfl
@[simp] theorem offerAdu_txPtr (t : List Byte) : (offerAdu t s).txPtr = 0 := rfl
@[simp] theorem offerAdu_settleUs (t : List Byte) : (offerAdu t s).settleUs = s.settleUs := rfl
@[simp] theorem offerAdu_inReset (t : List Byte) : (offerAdu t s).inReset = s.inReset := rfl
@[simp] theorem offerAdu_rxEnded (t : List Byte) : (offerAdu t s).rxEnded = s.rxEnded := rfl
@[simp] theorem offerAdu_hostResp (t : List Byte) : (offerAdu t s).hostResp = s.hostResp := rfl
@[simp] theorem offerAdu_quantum (t : List Byte) : (offerAdu t s).quantum = s.quantum := rfl
@[simp] theorem offerAdu_sched (t : List Byte) : (offerAdu t s).sched = s.sched := rfl
@[simp] theorem offerAdu_wire (t : List Byte) : (offerAdu t s).wire = s.wire := rfl
@[simp] theorem offerAdu_delivered (t : List Byte) : (offerAdu t s).delivered = s.delivered := rfl

/-! ## `setQuantum` -/

@[simp] theorem setQuantum_cfg (q : Option Nat) : (s.setQuantum q).cfg = s.cfg := rfl
@[simp] theorem setQuantum_params (q : Option Nat) : (s.setQuantum q).params = s.params := rfl
@[simp] theorem setQuantum_banks (q : Option Nat) : (s.setQuantum q).banks = s.banks := rfl
@[simp] theorem setQuantum_cbQueue (q : Option Nat) : (s.setQuantum q).cbQueue = s.cbQueue := rfl
@[simp] theorem setQuantum_fault (q : Option Nat) : (s.setQuantum q).fault = s.fault := rfl
@[simp] theorem setQuantum_frState (q : Option Nat) : (s.setQuantum q).frState = s.frState := rfl
@[simp] theorem setQuantum_pos (q : Option Nat) : (s.setQuantum q).pos = s.pos := rfl
@[simp] theorem setQuantum_rxFifo (q : Option Nat) : (s.setQuantum q).rxFifo = s.rxFifo := rfl
@[simp] theorem setQuantum_acc (q : Option Nat) : (s.setQuantum q).acc = s.acc := rfl
@[simp] theorem setQuantum_idleUs (q : Option Nat) : (s.setQuantum q).idleUs = s.idleUs := rfl
@[simp] theorem setQuantum_ticksHeld (q : Option Nat) : (s.setQuantum q).ticksHeld = s.ticksHeld := rfl
@[simp] theorem setQuantum_frame (q : Option Nat) : (s.setQuantum q).frame = s.frame := rfl
@[simp] theorem setQuantum_req (q : Option Nat) : (s.setQuantum q).req = s.req := rfl
@[simp] theorem setQuantum_resp (q : Option Nat) : (s.setQuantum q).resp = s.resp := rfl
@[simp] theorem setQuantum_dispOut (q : Option Nat) : (s.setQuantum q).dispOut = s.dispOut := rfl
@[simp] theorem setQuantum_final (q : Option Nat) : (s.setQuantum q).final = s.final := rfl
@[simp] theorem setQuantum_exitCause (q : Option Nat) : (s.setQuantum q).exitCause = s.exitCause := rfl
@[simp] theorem setQuantum_txBuf (q : Option Nat) : (s.setQuantum q).txBuf = s.txBuf := rfl
@[simp] theorem setQuantum_txPtr (q : Option Nat) : (s.setQuantum q).txPtr = s.txPtr := rfl
@[simp] theorem setQuantum_settleUs (q : Option Nat) : (s.setQuantum q).settleUs = s.settleUs := rfl
@[simp] theorem setQuantum_inReset (q : Option Nat) : (s.setQuantum q).inReset = s.inReset := rfl
@[simp] theorem setQuantum_rxEnded (q : Option Nat) : (s.setQuantum q).rxEnded = s.rxEnded := rfl
@[simp] theorem setQuantum_hostResp (q : Option Nat) : (s.setQuantum q).hostResp = s.hostResp := rfl
@[simp] theorem setQuantum_quantum (q : Option Nat) : (s.setQuantum q).quantum = q := rfl
@[simp] theorem setQuantum_sched (q : Option Nat) : (s.setQuantum q).sched = s.sched := rfl
@[simp] theorem setQuantum_wire (q : Option Nat) : (s.setQuantum q).wire = s.wire := rfl
@[simp] theorem setQuantum_delivered (q : Option Nat) : (s.setQuantum q).delivered = s.delivered := rfl

end Sys2Proof.Machine
end

