-- ==== Sys2Proof/Laws/Sequencer.lean ====
section
/-! SUPPORT. What the engine's turn on a frame can do: the internal steps one by one, and their composition. -/

-- One thread: the joined file is compiled under a memory limit that a thread for every theorem would exceed.
set_option Elab.async false

namespace Sys2Proof.Machine

/-! ## `advance` -/

@[simp] theorem advance_zero (f : State → State) (s : State) : advance f 0 s = s := rfl

theorem advance_process (f : State → State) (n : Nat) (s : State) (h : s.frState = .process) :
    advance f (n + 1) s = advance f n (f s) := by
  simp [advance, h]

/-- Outside `PROCESS` the engine's turn on a frame is over. -/
theorem advance_stop (f : State → State) (n : Nat) (s : State) (h : s.frState ≠ .process) : advance f n s = s := by
  cases n with
  | zero => rfl
  | succ n =>
    unfold advance
    cases hs : s.frState <;> simp_all

/-- A turn of `m + n` internal steps is a turn of `m` and then one of `n`. -/
theorem advance_add (f : State → State) (m n : Nat) (s : State) :
    advance f (m + n) s = advance f n (advance f m s) := by
  induction m generalizing s with
  | zero => simp
  | succ m ih =>
    by_cases h : s.frState = .process
    · rw [Nat.add_right_comm, advance_process f _ s h, advance_process f _ s h, ih]
    · rw [advance_stop f _ s h, advance_stop f _ s h, advance_stop f _ s h]

/-- What every internal step keeps, the turn keeps. -/
theorem advance_keeps (P : State → Prop) (f : State → State)
    (hf : ∀ s, s.frState = .process → P s → P (f s)) (n : Nat) (s : State) (h : P s) : P (advance f n s) := by
  induction n generalizing s with
  | zero => exact h
  | succ n ih =>
    by_cases hs : s.frState = .process
    · rw [advance_process f n s hs]
      exact ih _ (hf s hs h)
    · rwa [advance_stop f _ s hs]

/-! ## The internal steps -/

section
variable (id func : Byte) (pf : Bool) (u : HandlerUnit) (s : State)

theorem internalStep_dispatch (h : s.pos = .dispatch) :
    internalStep id func pf u s = dispatchStart id func pf u s := by simp [internalStep, h]

theorem internalStep_access (i : Nat) (buf : List Byte) (h : s.pos = .access i buf) (hi : i < u.count) :
    internalStep id func pf u s = u.access i buf s := by simp [internalStep, h, hi]

theorem internalStep_done (i : Nat) (buf : List Byte) (h : s.pos = .access i buf) (hi : u.count ≤ i) :
    internalStep id func pf u s = (u.done buf s).setPos .finish := by
  simp [internalStep, h, Nat.not_lt.mpr hi]

theorem internalStep_finish (h : s.pos = .finish) : internalStep id func pf u s = dispatchFinish id s := by
  simp [internalStep, h]

theorem internalStep_encode (h : s.pos = .encode) : internalStep id func pf u s = endProcess s := by
  simp [internalStep, h]

/-- All that the dispatcher's first internal step can do (R162 to R165, R168). -/
theorem dispatchStart_cases :
    (addressed s.cfg id = false ∧ dispatchStart id func pf u s = suppress .unaddressed (scaffold id func s)) ∨
    (addressed s.cfg id = true ∧ pf = true ∧
      dispatchStart id func pf u s = suppress .parseFailed (scaffold id func s)) ∨
    (addressed s.cfg id = true ∧ pf = false ∧ present s.cfg func = false ∧
      dispatchStart id func pf u s = raise errorFunction (scaffold id func s)) ∨
    (addressed s.cfg id = true ∧ pf = false ∧ present s.cfg func = true ∧ (∃ code, u.check s.cfg = some code ∧
      dispatchStart id func pf u s = raise code (scaffold id func s))) ∨
    (addressed s.cfg id = true ∧ pf = false ∧ present s.cfg func = true ∧ u.check s.cfg = none ∧
      dispatchStart id func pf u s = (scaffold id func s).setPos (.access 0 u.init)) := by
  unfold dispatchStart
  cases ha : addressed s.cfg id <;> cases hp : pf <;> cases hq : present s.cfg func <;>
    cases hu : u.check s.cfg <;> simp

/-- All that the last internal step can do (R251). -/
theorem endProcess_cases :
    (∃ t, getAdu s.resp = .bytes t ∧ endProcess s = offerAdu t s) ∨
    (∃ why, getAdu s.resp = .fail why ∧ s.final = true ∧ endProcess s = halt s.exitCause s) ∨
    (∃ why, getAdu s.resp = .fail why ∧ s.final = false ∧ endProcess s = enterReceive s) := by
  unfold endProcess frameDone
  cases hg : getAdu s.resp <;> cases hf : s.final <;> simp

@[simp] theorem firstCause_self (c : ExitCause) : firstCause c c = c := by cases c <;> rfl

end

/-! ## The dispatcher's step 4 -/

section
variable (id : Byte) (s : State)

@[simp] theorem dispatchFinish_cfg : (dispatchFinish id s).cfg = s.cfg := by
  unfold dispatchFinish; split <;> rfl
@[simp] theorem dispatchFinish_params : (dispatchFinish id s).params = s.params := by
  unfold dispatchFinish; split <;> rfl
@[simp] theorem dispatchFinish_banks : (dispatchFinish id s).banks = s.banks := by
  unfold dispatchFinish; split <;> rfl
@[simp] theorem dispatchFinish_cbQueue : (dispatchFinish id s).cbQueue = s.cbQueue := by
  unfold dispatchFinish; split <;> rfl
@[simp] theorem dispatchFinish_fault : (dispatchFinish id s).fault = s.fault := by
  unfold dispatchFinish; split <;> rfl
@[simp] theorem dispatchFinish_frState : (dispatchFinish id s).frState = s.frState := by
  unfold dispatchFinish; split <;> rfl
@[simp] theorem dispatchFinish_pos : (dispatchFinish id s).pos = .encode := by
  unfold dispatchFinish; split <;> rfl
@[simp] theorem dispatchFinish_rxFifo : (dispatchFinish id s).rxFifo = s.rxFifo := by
  unfold dispatchFinish; split <;> rfl
@[simp] theorem dispatchFinish_acc : (dispatchFinish id s).acc = s.acc := by
  unfold dispatchFinish; split <;> rfl
@[simp] theorem dispatchFinish_idleUs : (dispatchFinish id s).idleUs = s.idleUs := by
  unfold dispatchFinish; split <;> rfl
@[simp] theorem dispatchFinish_ticksHeld : (dispatchFinish id s).ticksHeld = s.ticksHeld := by
  unfold dispatchFinish; split <;> rfl
@[simp] theorem dispatchFinish_frame : (dispatchFinish id s).frame = s.frame := by
  unfold dispatchFinish; split <;> rfl
@[simp] theorem dispatchFinish_req : (dispatchFinish id s).req = s.req := by
  unfold dispatchFinish; split <;> rfl
@[simp] theorem dispatchFinish_resp : (dispatchFinish id s).resp = { s.resp with unanswered := s.resp.unanswered || decide (id = 255) } := by
  unfold dispatchFinish; split <;> simp_all [setUnanswered, Config.broadcastId]
@[simp] theorem dispatchFinish_dispOut : (dispatchFinish id s).dispOut = outcomeOf id := by
  unfold dispatchFinish; split <;> rfl
@[simp] theorem dispatchFinish_final : (dispatchFinish id s).final = s.final := by
  unfold dispatchFinish; split <;> rfl
@[simp] theorem dispatchFinish_exitCause : (dispatchFinish id s).exitCause = s.exitCause := by
  unfold dispatchFinish; split <;> rfl
@[simp] theorem dispatchFinish_txBuf : (dispatchFinish id s).txBuf = s.txBuf := by
  unfold dispatchFinish; split <;> rfl
@[simp] theorem dispatchFinish_txPtr : (dispatchFinish id s).txPtr = s.txPtr := by
  unfold dispatchFinish; split <;> rfl
@[simp] theorem dispatchFinish_settleUs : (dispatchFinish id s).settleUs = s.settleUs := by
  unfold dispatchFinish; split <;> rfl
@[simp] theorem dispatchFinish_inReset : (dispatchFinish id s).inReset = s.inReset := by
  unfold dispatchFinish; split <;> rfl
@[simp] theorem dispatchFinish_rxEnded : (dispatchFinish id s).rxEnded = s.rxEnded := by
  unfold dispatchFinish; split <;> rfl
@[simp] theorem dispatchFinish_hostResp : (dispatchFinish id s).hostResp = s.hostResp := by
  unfold dispatchFinish; split <;> rfl
@[simp] theorem dispatchFinish_quantum : (dispatchFinish id s).quantum = s.quantum := by
  unfold dispatchFinish; split <;> rfl
@[simp] theorem dispatchFinish_sched : (dispatchFinish id s).sched = s.sched := by
  unfold dispatchFinish; split <;> rfl
@[simp] theorem dispatchFinish_wire : (dispatchFinish id s).wire = s.wire := by
  unfold dispatchFinish; split <;> rfl
@[simp] theorem dispatchFinish_delivered : (dispatchFinish id s).delivered = s.delivered := by
  unfold dispatchFinish; split <;> rfl

end

end Sys2Proof.Machine
end

