-- ==== Sys2Proof/Laws/Keeps.lean ====
section
/-! SUPPORT. The frame relations of Safety.lean: they are reflexive and transitive, and what each internal step of a frame keeps. -/

-- One thread: the joined file is compiled under a memory limit that a thread for every theorem would exceed.
set_option Elab.async false

namespace Sys2Proof.Machine

variable {s t u s' t' : State}

/-! ## Reflexive and transitive -/

theorem CoreKeeps.refl (s : State) : CoreKeeps s s := by constructor <;> rfl

theorem CoreKeeps.trans (h : CoreKeeps s t) (k : CoreKeeps t u) : CoreKeeps s u where
  cfg := k.cfg.trans h.cfg
  params := k.params.trans h.params
  rxOverrun := k.rxOverrun.trans h.rxOverrun
  frame := k.frame.trans h.frame
  req := k.req.trans h.req
  final := k.final.trans h.final
  exitCause := k.exitCause.trans h.exitCause
  settleUs := k.settleUs.trans h.settleUs
  inReset := k.inReset.trans h.inReset
  rxEnded := k.rxEnded.trans h.rxEnded
  quantum := k.quantum.trans h.quantum
  sched := k.sched.trans h.sched
  wire := k.wire.trans h.wire
  delivered := k.delivered.trans h.delivered

theorem ReceiverKeeps.refl (s : State) : ReceiverKeeps s s := by constructor <;> rfl

theorem ReceiverKeeps.trans (h : ReceiverKeeps s t) (k : ReceiverKeeps t u) : ReceiverKeeps s u where
  rxFifo := k.rxFifo.trans h.rxFifo
  acc := k.acc.trans h.acc
  idleUs := k.idleUs.trans h.idleUs
  ticksHeld := k.ticksHeld.trans h.ticksHeld

theorem FrameKeeps.refl (s : State) : FrameKeeps s s := ⟨CoreKeeps.refl s, rfl⟩

theorem FrameKeeps.trans (h : FrameKeeps s t) (k : FrameKeeps t u) : FrameKeeps s u :=
  ⟨h.toCoreKeeps.trans k.toCoreKeeps, k.hostResp.trans h.hostResp⟩

/-- What every internal step of a frame before the last one keeps. -/
structure HandlingKeeps (s t : State) : Prop extends FrameKeeps s t, ReceiverKeeps s t where
  frState : t.frState = s.frState
  txBuf : t.txBuf = s.txBuf
  txPtr : t.txPtr = s.txPtr

theorem HandlingKeeps.refl (s : State) : HandlingKeeps s s := ⟨FrameKeeps.refl s, ReceiverKeeps.refl s, rfl, rfl, rfl⟩

theorem HandlingKeeps.trans (h : HandlingKeeps s t) (k : HandlingKeeps t u) : HandlingKeeps s u :=
  ⟨h.toFrameKeeps.trans k.toFrameKeeps, h.toReceiverKeeps.trans k.toReceiverKeeps,
    k.frState.trans h.frState, k.txBuf.trans h.txBuf, k.txPtr.trans h.txPtr⟩

/-! ## The shared operations -/

/-- Closes `HandlingKeeps` for an operation whose field lemmas are `@[simp]`. -/
theorem handlingKeeps_of (h : CoreKeeps s t) (h1 : t.hostResp = s.hostResp) (h2 : t.rxFifo = s.rxFifo)
    (h3 : t.acc = s.acc) (h4 : t.idleUs = s.idleUs) (h5 : t.ticksHeld = s.ticksHeld) (h6 : t.frState = s.frState)
    (h7 : t.txBuf = s.txBuf) (h8 : t.txPtr = s.txPtr) : HandlingKeeps s t :=
  ⟨⟨h, h1⟩, ⟨h2, h3, h4, h5⟩, h6, h7, h8⟩

theorem setPos_keeps (p : Pos) (s : State) : HandlingKeeps s (s.setPos p) := by
  apply handlingKeeps_of <;> first | rfl | (constructor <;> rfl)

theorem scaffold_keeps (id func : Byte) (s : State) : HandlingKeeps s (scaffold id func s) := by
  apply handlingKeeps_of <;> first | rfl | (constructor <;> rfl)

theorem setRead_keeps (buf : List Byte) (s : State) : HandlingKeeps s (setRead buf s) := by
  apply handlingKeeps_of <;> first | rfl | (constructor <;> rfl)

theorem setSingleWrite_keeps (addr : Word) (data : List Byte) (s : State) : HandlingKeeps s (setSingleWrite addr data s) := by
  apply handlingKeeps_of <;> first | rfl | (constructor <;> rfl)

theorem setMultiWrite_keeps (addr count : Word) (s : State) : HandlingKeeps s (setMultiWrite addr count s) := by
  apply handlingKeeps_of <;> first | rfl | (constructor <;> rfl)

theorem suppress_keeps (out : DispOut) (s : State) : HandlingKeeps s (suppress out s) := by
  apply handlingKeeps_of <;> first | rfl | (constructor <;> rfl)

theorem raise_keeps (code : Byte) (s : State) : HandlingKeeps s (raise code s) := by
  apply handlingKeeps_of <;> first | rfl | (constructor <;> rfl)

theorem dispatchFinish_keeps (id : Byte) (s : State) : HandlingKeeps s (dispatchFinish id s) := by
  apply handlingKeeps_of <;> first | simp | (constructor <;> simp)

theorem memRead_keeps (k : BankId) (a : Nat) (s : State) : HandlingKeeps s (memRead k a s).2 := by
  apply handlingKeeps_of <;> first | simp | (constructor <;> simp)

theorem memWrite_keeps (k : BankId) (a : Nat) (v : Word) (s : State) : HandlingKeeps s (memWrite k a v s).2 := by
  apply handlingKeeps_of <;> first | simp | (constructor <;> simp)

/-! ## Addressed and enabled -/

theorem addressed_iff (c : Cfg) (id : Byte) : addressed c id = true ↔ Addressed c id := by
  simp [addressed, Addressed, Config.broadcastId]

/-- Each standard code has its enable bit, and no other function byte has one (R24). -/
theorem handlerBit_eq (f : Byte) : handlerBit f =
    ([(1, 0), (2, 1), (3, 2), (4, 3), (5, 4), (6, 5), (15, 6), (16, 7)] : List (Byte × Nat)).lookup f := by
  revert f
  decide

theorem handlerBit_iff (f : Byte) (b : Nat) : handlerBit f = some b ↔
    (f, b) ∈ ([(1, 0), (2, 1), (3, 2), (4, 3), (5, 4), (6, 5), (15, 6), (16, 7)] : List (Byte × Nat)) := by
  rw [handlerBit_eq]
  constructor
  · intro h
    obtain ⟨l, r, e, _⟩ := List.lookup_eq_some_iff.mp h
    rw [e]
    simp
  · simp only [List.mem_cons, Prod.mk.injEq, List.not_mem_nil, or_false]
    rintro (⟨rfl, rfl⟩ | ⟨rfl, rfl⟩ | ⟨rfl, rfl⟩ | ⟨rfl, rfl⟩ | ⟨rfl, rfl⟩ | ⟨rfl, rfl⟩ | ⟨rfl, rfl⟩ | ⟨rfl, rfl⟩) <;> rfl

theorem present_iff (c : Cfg) (f : Byte) : present c f = true ↔ Enabled c f := by
  unfold present Enabled
  constructor
  · intro h
    cases hb : handlerBit f with
    | none => rw [hb] at h; exact absurd h (by simp)
    | some b => rw [hb] at h; exact ⟨(f, b), (handlerBit_iff f b).mp hb, rfl, h⟩
  · rintro ⟨⟨f', b⟩, hm, rfl, h⟩
    rw [(handlerBit_iff f' b).mpr hm]
    exact h

/-! ## Events -/

theorem accessEvents_zero (c : Cfg) (k : BankId) (kind : CbKind) (a : Nat) (value : Nat → Word) :
    accessEvents c k kind a 0 value = [] := rfl

theorem accessEvents_succ (c : Cfg) (k : BankId) (kind : CbKind) (a n : Nat) (value : Nat → Word) :
    accessEvents c k kind a (n + 1) value = accessEvents c k kind a n value ++
      (if cbEnabled c k (a + n) then [⟨k, kind, a + n, value n⟩] else []) := by
  unfold accessEvents
  rw [List.range_succ, List.filter_append, List.map_append]
  congr 1
  by_cases h : cbEnabled c k (a + n) <;> simp [h]

theorem emitted_unbounded (l : List CbEvent) (hd : s.params.cbDepth = none) :
    Emitted s t l ↔ t.cbQueue.Perm (s.cbQueue ++ l) ∧ t.fault.cbOverflow = s.fault.cbOverflow := by
  simp [Emitted, eventsKept, hd]

theorem emitted_bounded (d : Nat) (l : List CbEvent) (hd : s.params.cbDepth = some d) :
    Emitted s t l ↔ t.cbQueue.Perm (s.cbQueue ++ l.take (d - s.cbQueue.length)) ∧
      t.fault.cbOverflow = (s.fault.cbOverflow || decide (d - s.cbQueue.length < l.length)) := by
  simp [Emitted, eventsKept, hd]

theorem emitted_nil (s : State) : Emitted s s [] := by
  unfold Emitted eventsKept
  cases s.params.cbDepth <;> simp

/-- Only the queue and its overflow bit matter. -/
theorem emitted_congr (l : List CbEvent) (hs1 : s'.cbQueue = s.cbQueue)
    (hs2 : s'.fault.cbOverflow = s.fault.cbOverflow) (hs3 : s'.params = s.params) (ht1 : t'.cbQueue = t.cbQueue)
    (ht2 : t'.fault.cbOverflow = t.fault.cbOverflow) (h : Emitted s t l) : Emitted s' t' l := by
  unfold Emitted eventsKept at *
  rw [hs1, hs2, hs3, ht1, ht2]
  exact h

/-- An event that finds room. -/
theorem queueInsert_append_perm (e : CbEvent) (q r l : List CbEvent) (h : q.Perm (r ++ l)) :
    (queueInsert e q).Perm (r ++ (l ++ [e])) := by
  rw [← List.append_assoc]
  exact (queueInsert_perm _ _).trans ((h.cons _).trans (List.perm_append_singleton _ _).symm)

/-- One more event: it joins the events emitted so far, or finds no room. -/
theorem emitted_emit (e : CbEvent) (l : List CbEvent) (hp : t.params = s.params) (h : Emitted s t l) :
    Emitted s (emit e t) (l ++ [e]) := by
  rcases hd : s.params.cbDepth with _ | d
  · rw [emitted_unbounded _ hd] at h ⊢
    rcases emit_cases e t with ⟨_, he⟩ | ⟨hf, _⟩
    · rw [he]
      exact ⟨queueInsert_append_perm _ _ _ _ h.1, h.2⟩
    · rw [hp, hd] at hf
      exact absurd hf (by simp)
  · rw [emitted_bounded d _ hd] at h ⊢
    have hlen := h.1.length_eq
    simp only [List.length_append, List.length_take] at hlen
    rcases emit_cases e t with ⟨hf, he⟩ | ⟨hf, he⟩ <;> rw [hp, hd] at hf <;> simp [fits] at hf <;> rw [he]
    · rw [List.take_of_length_le (by omega)] at h
      rw [List.take_of_length_le (by simp; omega)]
      refine ⟨queueInsert_append_perm _ _ _ _ h.1, h.2.trans ?_⟩
      congr 1
      simp; omega
    · rw [List.take_append_of_le_length (by omega)]
      refine ⟨h.1, ?_⟩
      simp; omega

/-- One more access of a run of accesses emits its event. -/
theorem emitted_emitIf (k : BankId) (kind : CbKind) (a n : Nat) (value : Nat → Word) (hc : t.cfg = s.cfg)
    (hp : t.params = s.params) (h : Emitted s t (accessEvents s.cfg k kind a n value)) :
    Emitted s (emitIf k kind (a + n) (value n) t) (accessEvents s.cfg k kind a (n + 1) value) := by
  rw [accessEvents_succ]
  unfold emitIf
  rw [hc]
  split
  · exact emitted_emit _ _ hp h
  · simpa using h

end Sys2Proof.Machine
end

