-- ==== Sys2Proof/Laws/Frames.lean ====
section
/-! SUPPORT. The stages of a frame in `PROCESS`, each as one equation or one fact: the start, the runs of accesses, the packing, the end. -/

-- One thread: the joined file is compiled under a memory limit that a thread for every theorem would exceed.
set_option Elab.async false

namespace Sys2Proof.Machine

/-! ## `GetADU` -/

theorem getAdu_unanswered (r : Response) (h : r.unanswered = true) : getAdu r = .fail .notAnswer := by
  simp [getAdu, h]

theorem getAdu_read (r : Response) (hu : r.unanswered = false) (hf : formatOf r.func = .rd) :
    getAdu r = if r.data.length = 0 then .fail .noData else .bytes (withCrc (readReply r)) := by
  simp [getAdu, hu, hf]

theorem getAdu_write (r : Response) (hu : r.unanswered = false) (hf : formatOf r.func = .ws ∨ formatOf r.func = .wm) :
    getAdu r = if r.data.length < 2 then .fail .shortData else .bytes (withCrc (writeReply r)) := by
  rcases hf with hf | hf <;> simp [getAdu, hu, hf]

theorem formatOf_bit7 (f : Byte) (h : f.getLsbD 7 = true) : formatOf f = .unknown := by
  revert f
  decide

@[simp] theorem exceptionFunc_bit7 (f : Byte) : (exceptionFunc f).getLsbD 7 = true := by simp [exceptionFunc]

theorem getAdu_exception (r : Response) (hu : r.unanswered = false) (hf : r.func.getLsbD 7 = true) :
    getAdu r = if r.err = 0 then .fail .zeroError else .bytes (withCrc (errorReply r)) := by
  simp only [getAdu, hu, formatOf_bit7 _ hf, hf]
  simp

/-! ## The start and the end of a frame -/

section
variable (id func : Byte) (pf : Bool) (u : HandlerUnit) (s : State)

theorem advance_encode (n : Nat) (hn : 1 ≤ n) (h : s.frState = .process) (hp : s.pos = .encode) :
    advance (internalStep id func pf u) n s = endProcess s := by
  obtain ⟨m, rfl⟩ := Nat.exists_eq_add_of_le' hn
  rw [advance_process _ _ _ h, internalStep_encode _ _ _ _ _ hp, advance_stop]
  rcases endProcess_cases s with ⟨t, _, e⟩ | ⟨w, _, _, e⟩ | ⟨w, _, _, e⟩ <;> rw [e] <;> simp

theorem advance_finish (n : Nat) (hn : 2 ≤ n) (h : s.frState = .process) (hp : s.pos = .finish) :
    advance (internalStep id func pf u) n s = endProcess (dispatchFinish id s) := by
  obtain ⟨m, rfl⟩ := Nat.exists_eq_add_of_le' hn
  rw [advance_process _ _ _ h, internalStep_finish _ _ _ _ _ hp, advance_encode _ _ _ _ _ _ (by omega) (by simpa using h) (by simp)]

/-- Past the last access: the builder call, step 4 and the encoder. -/
theorem advance_done (n i : Nat) (buf : List Byte) (hn : 3 ≤ n) (h : s.frState = .process) (hp : s.pos = .access i buf)
    (hi : u.count ≤ i) (hk : (u.done buf s).frState = .process) :
    advance (internalStep id func pf u) n s = endProcess (dispatchFinish id ((u.done buf s).setPos .finish)) := by
  obtain ⟨m, rfl⟩ := Nat.exists_eq_add_of_le' hn
  rw [advance_process _ _ _ h, internalStep_done _ _ _ _ _ _ _ hp hi, advance_finish _ _ _ _ _ _ (by omega) (by simpa using hk) (by simp)]

/-- A frame that is ready runs the dispatcher's step first. -/
theorem process_ready (h : Ready s) : process id func pf u s =
    advance (internalStep id func pf u) (u.count + 3) (dispatchStart id func pf u s) := by
  obtain ⟨h1, h2, h3⟩ := h
  unfold process
  rw [h3]
  simp only [Option.getD_none]
  rw [advance_process _ _ _ h1, internalStep_dispatch _ _ _ _ _ h2]

/-- The dispatcher's step for a frame that its handler sees. -/
theorem dispatchStart_handled (h : Handled s id func) :
    (∀ code, u.check s.cfg = some code → dispatchStart id func false u s = raise code (scaffold id func s)) ∧
    (u.check s.cfg = none → dispatchStart id func false u s = (scaffold id func s).setPos (.access 0 u.init)) := by
  unfold dispatchStart
  rw [(addressed_iff _ _).mpr h.1, (present_iff _ _).mpr h.2]
  refine ⟨fun code hc => ?_, fun hc => ?_⟩ <;> simp [hc]

end

/-- The end of `PROCESS` without a reply. -/
theorem endProcess_dropped (s₀ s : State) (why : FailReason) (hg : getAdu s.resp = .fail why)
    (hk : HandlingKeeps s₀ s) :
    Dropped s₀ (endProcess s) ∧ FrameKeeps s₀ (endProcess s) ∧ (endProcess s).banks = s.banks ∧
      (endProcess s).cbQueue = s.cbQueue ∧ (endProcess s).fault = s.fault ∧ (endProcess s).dispOut = s.dispOut ∧
      (endProcess s).resp = s.resp := by
  have e : endProcess s = frameDone s := by simp [endProcess, hg]
  rw [e]
  unfold frameDone
  obtain ⟨⟨⟨c1, c2, c3, c4, c5, c6, c7, c8, c9, c10, c11, c12, c13, c14⟩, c15⟩, ⟨r1, r2, r3, r4⟩, hs, hb, hp⟩ := hk
  cases hf : s.final
  · simp only [Bool.false_eq_true, if_false]
    refine ⟨⟨hb, hp, ?_, rfl⟩, ⟨⟨c1, c2, c3, c4, c5, c6, c7, c8, c9, c10, c11, c12, c13, c14⟩, c15⟩, rfl, rfl, rfl, rfl, rfl⟩
    rw [← c6, hf]
    simp [r1]
  · simp only [if_true]
    refine ⟨⟨hb, hp, ?_, rfl⟩,
      ⟨⟨c1, c2, c3, c4, c5, c6, by simpa using c7, c8, c9, c10, c11, c12, c13, c14⟩, c15⟩, rfl, rfl, rfl, rfl, rfl⟩
    rw [← c6, hf]
    simp [r2, r3]

/-- Step 4 and the end of `PROCESS`, for a frame whose reply would be `p`. -/
theorem finish_concluded (s₀ s : State) (id : Byte) (p : List Byte) (hk : HandlingKeeps s₀ s)
    (hg : id ≠ 255 → getAdu s.resp = .bytes (withCrc p)) :
    Concluded s₀ (endProcess (dispatchFinish id s)) id p ∧ FrameKeeps s₀ (endProcess (dispatchFinish id s)) ∧
      (endProcess (dispatchFinish id s)).banks = s.banks ∧ (endProcess (dispatchFinish id s)).cbQueue = s.cbQueue ∧
      (endProcess (dispatchFinish id s)).fault = s.fault ∧
      ∃ b, (endProcess (dispatchFinish id s)).resp = { s.resp with unanswered := b } := by
  have hk' := hk.trans (dispatchFinish_keeps id s)
  by_cases hb : id = 255
  · obtain ⟨k1, k2, k3, k4, k5, k6, k7⟩ :=
      endProcess_dropped s₀ (dispatchFinish id s) .notAnswer (getAdu_unanswered _ (by simp [hb])) hk'
    refine ⟨⟨fun _ => ⟨k1, ?_, ?_⟩, fun h => absurd hb h⟩, k2, ?_, ?_, ?_, true, ?_⟩
    · rw [k6]; simp [outcomeOf, hb, Config.broadcastId]
    · rw [k7]; simp [hb]
    · rw [k3]; simp
    · rw [k4]; simp
    · rw [k5]; simp
    · rw [k7]; simp [hb]
  · have hr : (dispatchFinish id s).resp = s.resp := by
      have : decide (id = 255) = false := by simpa using hb
      rw [dispatchFinish_resp, this]; simp
    have e : endProcess (dispatchFinish id s) = offerAdu (withCrc p) (dispatchFinish id s) := by
      simp only [endProcess, hr, hg hb]
    have ho : outcomeOf id = .dispatched := if_neg hb
    refine ⟨⟨fun h => absurd h hb, fun _ => ⟨⟨?_, ?_, ?_, ?_⟩, ?_⟩⟩, ?_, ?_, ?_, ?_, s.resp.unanswered, ?_⟩
    · rw [e]; rfl
    · rw [e]; rfl
    · rw [e]; rfl
    · rw [e]; exact hk'.toReceiverKeeps.trans ⟨rfl, rfl, rfl, rfl⟩
    · rw [e]; exact (dispatchFinish_dispOut id s).trans ho
    · rw [e]; exact hk'.toFrameKeeps.trans ⟨by constructor <;> rfl, rfl⟩
    · rw [e]; exact dispatchFinish_banks id s
    · rw [e]; exact dispatchFinish_cbQueue id s
    · rw [e]; exact dispatchFinish_fault id s
    · rw [e]; exact hr

/-! ## Runs of accesses -/

/-- The first `n` accesses of a read unit: nothing is stored, each cell is packed, and the events are emitted (R69, R187). -/
theorem read_run (id func : Byte) (pf : Bool) (u : HandlerUnit) (k : BankId) (a : Nat)
    (pack : List Byte → Nat → Word → List Byte)
    (ha : ∀ i buf s, u.access i buf s =
      (memRead k (a + i) s).2.setPos (.access (i + 1) (pack buf i (memRead k (a + i) s).1)))
    (s : State) (hs : s.frState = .process) (hp : s.pos = .access 0 u.init) (hc : a + u.count ≤ capOf s.cfg k)
    (n : Nat) (hn : n ≤ u.count) :
    ∃ t, advance (internalStep id func pf u) n s = t ∧ HandlingKeeps s t ∧ t.banks = s.banks ∧ t.resp = s.resp ∧
      t.pos = .access n ((List.range n).foldl (fun b i => pack b i (s.cell k (a + i))) u.init) ∧
      Emitted s t (accessEvents s.cfg k .read a n (fun j => s.cell k (a + j))) := by
  induction n with
  | zero => exact ⟨s, rfl, HandlingKeeps.refl s, rfl, rfl, hp, emitted_nil s⟩
  | succ n ih =>
    obtain ⟨t, e, hk, hb, hr, hpos, hem⟩ := ih (by omega)
    rw [advance_add _ n 1, e, advance_process _ _ _ (hk.frState.trans hs),
      internalStep_access _ _ _ _ _ _ _ hpos (by omega), ha, advance_zero]
    have hcell : t.cell k (a + n) = s.cell k (a + n) := by simp [State.cell, hb]
    have hm : memRead k (a + n) t = (s.cell k (a + n), emitIf k .read (a + n) (s.cell k (a + n)) t) := by
      unfold memRead
      rw [hk.cfg, if_pos (by omega), hcell]
    have hk2 := (hk.trans (memRead_keeps k (a + n) t)).trans (setPos_keeps
      (.access (n + 1) (pack ((List.range n).foldl (fun b i => pack b i (s.cell k (a + i))) u.init) n
        (memRead k (a + n) t).1)) _)
    refine ⟨_, rfl, hk2, by simp [hb], by simp [hr], ?_, ?_⟩
    · rw [hm, List.range_succ, List.foldl_append]
      rfl
    · rw [hm]
      exact emitted_emitIf k .read a n (fun j => s.cell k (a + j)) hk.cfg hk.params hem

/-- The first `n` accesses of a multiple write: the cells are stored one by one, and the events are emitted (R69, R206). -/
theorem write_run (id func : Byte) (pf : Bool) (u : HandlerUnit) (k : BankId) (a : Nat) (value : Nat → Word)
    (hv : ∀ i, narrow k (value i) = value i)
    (ha : ∀ i buf s, u.access i buf s = (memWrite k (a + i) (value i) s).2.setPos (.access (i + 1) buf))
    (s : State) (hs : s.frState = .process) (hp : s.pos = .access 0 u.init) (hc : a + u.count ≤ capOf s.cfg k)
    (n : Nat) (hn : n ≤ u.count) :
    ∃ t, advance (internalStep id func pf u) n s = t ∧ HandlingKeeps s t ∧ t.resp = s.resp ∧
      t.pos = .access n u.init ∧
      (∀ k' b, t.cell k' b = if k' = k ∧ a ≤ b ∧ b < a + n then value (b - a) else s.cell k' b) ∧
      Emitted s t (accessEvents s.cfg k .write a n value) := by
  induction n with
  | zero =>
    refine ⟨s, rfl, HandlingKeeps.refl s, rfl, hp, fun k' b => ?_, emitted_nil s⟩
    rw [if_neg (by omega)]
  | succ n ih =>
    obtain ⟨t, e, hk, hr, hpos, hcell, hem⟩ := ih (by omega)
    rw [advance_add _ n 1, e, advance_process _ _ _ (hk.frState.trans hs),
      internalStep_access _ _ _ _ _ _ _ hpos (by omega), ha, advance_zero]
    have hm : memWrite k (a + n) (value n) t =
        (true, emitIf k .write (a + n) (value n) { t with banks := bankSet t.banks k (a + n) (value n) }) := by
      unfold memWrite
      rw [hk.cfg, if_pos (by omega)]
    have hk2 := (hk.trans (memWrite_keeps k (a + n) (value n) t)).trans (setPos_keeps (.access (n + 1) u.init) _)
    refine ⟨_, rfl, hk2, by simp [hr], rfl, fun k' b => ?_, ?_⟩
    · rw [hm]
      have h1 := hcell k' b
      simp only [State.cell, setPos_banks, emitIf_banks, bankGet_set, hv] at h1 ⊢
      rw [h1]
      by_cases hk' : k' = k
      · by_cases hb : b = a + n
        · rw [if_pos ⟨hk', hb⟩, if_pos ⟨hk', by omega, by omega⟩, hb, Nat.add_sub_cancel_left]
        · rw [if_neg (fun h => hb h.2)]
          by_cases hlt : a ≤ b ∧ b < a + n
          · rw [if_pos ⟨hk', hlt⟩, if_pos ⟨hk', by omega, by omega⟩]
          · rw [if_neg (fun h => hlt h.2), if_neg (fun h => hlt ⟨h.2.1, by omega⟩)]
      · rw [if_neg (fun h => hk' h.1), if_neg (fun h => hk' h.1), if_neg (fun h => hk' h.1)]
    · rw [hm]
      exact emitted_emitIf (t := { t with banks := bankSet t.banks k (a + n) (value n) }) k .write a n value
        hk.cfg hk.params hem

/-! ## Packing (R100, R101) -/

/-- The packed bits of the first `n` cells: each in its place, all others 0. -/
theorem packBits_spec (len : Nat) (v : Nat → Word) (n : Nat) (hn : n ≤ 8 * len) :
    ((List.range n).foldl (fun b i => packBit b i (v i)) (List.replicate len 0)).length = len ∧
    ∀ j, j < 8 * len →
      (((List.range n).foldl (fun b i => packBit b i (v i)) (List.replicate len 0)).getD (j / 8) 0).getLsbD (j % 8) =
        (decide (j < n) && decide (v j ≠ 0)) := by
  induction n with
  | zero =>
    refine ⟨by simp, fun j hj => ?_⟩
    have hj8 : j / 8 < len := by omega
    simp [List.getD_eq_getElem?_getD, hj8]
  | succ n ih =>
    obtain ⟨h1, h2⟩ := ih (by omega)
    rw [List.range_succ, List.foldl_append]
    generalize (List.range n).foldl (fun b i => packBit b i (v i)) (List.replicate len 0) = d at h1 h2 ⊢
    simp only [List.foldl_cons, List.foldl_nil, packBit]
    by_cases hv : v n = 0
    · rw [if_pos hv]
      refine ⟨h1, fun j hj => ?_⟩
      rw [h2 j hj]
      by_cases hj' : j = n
      · subst hj'
        simp [hv]
      · congr 1
        simp only [decide_eq_decide]
        omega
    · rw [if_neg hv]
      refine ⟨by simp [orBit, h1], fun j hj => ?_⟩
      have h2j := h2 j hj
      have hjl : j / 8 < d.length := by omega
      have hget : (orBit d n).getD (j / 8) 0 =
          if n / 8 = j / 8 then d.getD (j / 8) 0 ||| (1#8 <<< (n % 8)) else d.getD (j / 8) 0 := by
        simp only [orBit, List.getD_eq_getElem?_getD, List.getElem?_modify]
        rw [List.getElem?_eq_getElem hjl]
        split <;> simp_all
      rw [hget]
      have bit : ∀ x < 8, ∀ y < 8, (1#8 <<< x).getLsbD y = decide (x = y) := by decide
      by_cases hd8 : n / 8 = j / 8
      · rw [if_pos hd8, BitVec.getLsbD_or, h2j, bit _ (Nat.mod_lt _ (by omega)) _ (Nat.mod_lt _ (by omega))]
        by_cases hj' : j = n
        · subst hj'
          simpa using hv
        · have e1 : decide (n % 8 = j % 8) = false := by simp only [decide_eq_false_iff_not]; omega
          have e2 : decide (j < n + 1) = decide (j < n) := by simp only [decide_eq_decide]; omega
          rw [e1, e2, Bool.or_false]
      · have e2 : decide (j < n + 1) = decide (j < n) := by simp only [decide_eq_decide]; omega
        rw [if_neg hd8, h2j, e2]

/-- The packed words of the first `n` cells. -/
theorem packWords_spec (v : Nat → Word) (n : Nat) :
    (List.range n).foldl (fun b i => packWord b (v i)) [] = (List.range n).flatMap (fun i => beBytes (v i)) := by
  induction n with
  | zero => rfl
  | succ n ih =>
    rw [List.range_succ, List.foldl_append, List.flatMap_append, ih]
    simp [packWord]

theorem packWords_length (v : Nat → Word) (n : Nat) :
    ((List.range n).flatMap (fun i => beBytes (v i))).length = 2 * n := by
  induction n with
  | zero => rfl
  | succ n ih =>
    rw [List.range_succ, List.flatMap_append, List.length_append, ih]
    simp
    omega

end Sys2Proof.Machine
end

