-- ==== Sys2Proof/Laws/Framer.lean ====
section
/-! SUPPORT. What each operation of the framer can do, and how steps and runs compose. -/

-- One thread: the joined file is compiled under a memory limit that a thread for every theorem would exceed.
set_option Elab.async false

namespace Sys2Proof.Machine

/-! ## Causes -/

/-- A cause once set is kept, and a fatal cause always leaves one (R307). -/
theorem firstCause_eq (old new : ExitCause) : firstCause old new = if old = .none then new else old := by
  cases old <;> simp [firstCause]

theorem firstCause_ne_none (old new : ExitCause) (h : new ≠ .none) : firstCause old new ≠ .none := by
  cases old <;> simp [firstCause, h]

/-! ## Bounds -/

/-- A bound with `none` for ∞ (R9). -/
theorem fits_iff (depth : Option Nat) (n : Nat) : fits depth n = true ↔ ∀ d, depth = some d → n < d := by
  cases depth <;> simp [fits]

/-! ## The receiver -/

/-- All that the delivery of an item can do (R242, R313). -/
theorem enqueue_cases (item : RxItem) (s : State) :
    (s.frState = .halted ∧ enqueue item s = s) ∨
    (s.frState ≠ .halted ∧ fits s.params.rxFifoDepth s.rxFifo.length = true ∧
      enqueue item s = { s with rxFifo := s.rxFifo ++ [item] }) ∨
    (s.frState ≠ .halted ∧ fits s.params.rxFifoDepth s.rxFifo.length = false ∧ enqueue item s = overrun s) := by
  unfold enqueue
  cases s.frState <;> cases fits s.params.rxFifoDepth s.rxFifo.length <;> simp

/-- All that a receive overrun can do (R313). -/
theorem overrun_cases (s : State) :
    (s.frState = .halted ∧ overrun s = s) ∨
    (s.frState = .receive ∧ (overrun s).frState = .halted ∧ (overrun s).rxFifo = [] ∧ (overrun s).ticksHeld = 0 ∧
      (overrun s).final = s.final ∧ (overrun s).exitCause = firstCause s.exitCause .rxOverrun ∧
      (overrun s).fault = { s.fault with rxOverrun := true }) ∨
    (s.frState ≠ .halted ∧ s.frState ≠ .receive ∧ overrun s =
      { s with
        fault := { s.fault with rxOverrun := true }
        exitCause := firstCause s.exitCause .rxOverrun
        final := true }) := by
  unfold overrun
  cases hs : s.frState <;> simp [hs]

/-! ## The engine in RECEIVE -/

/-- All that one counted tick can do in `RECEIVE` (R246, R247). -/
theorem countTick_cases (s : State) :
    (s.idleUs + 1 ≠ tSilent s.cfg ∧ countTick s = { s with idleUs := s.idleUs + 1 }) ∨
    (s.idleUs + 1 = tSilent s.cfg ∧ s.acc.len = 0 ∧ countTick s = { s with idleUs := 0 }) ∨
    (s.idleUs + 1 = tSilent s.cfg ∧ 0 < s.acc.len ∧ countTick s = takeFrame { s with idleUs := s.idleUs + 1 }) := by
  unfold countTick
  by_cases h : s.idleUs + 1 = tSilent s.cfg
  · by_cases hl : 0 < s.acc.len
    · exact .inr (.inr ⟨h, hl, by rw [if_pos h, if_pos hl]⟩)
    · exact .inr (.inl ⟨h, by omega, by rw [if_pos h, if_neg hl]⟩)
  · exact .inl ⟨h, if_neg h⟩

/-- All that the engine's step in `RECEIVE` can do (R245). -/
theorem receiveStep_cases (s : State) :
    (∃ b rest, s.rxFifo = .byte b :: rest ∧ receiveStep s = popByte b { s with rxFifo := rest }) ∨
    (∃ e rest, s.rxFifo = .err e :: rest ∧ receiveStep s = popErr e { s with rxFifo := rest }) ∨
    (s.rxFifo = [] ∧ s.ticksHeld = 0 ∧ receiveStep s = s) ∨
    (∃ n, s.rxFifo = [] ∧ s.ticksHeld = n + 1 ∧ receiveStep s = countTick { s with ticksHeld := n }) := by
  unfold receiveStep
  cases hq : s.rxFifo with
  | nil => cases hn : s.ticksHeld <;> simp
  | cons item rest => cases item <;> simp

/-- All that popping the receiver's error can do (R249). -/
theorem popErr_cases (e : ErrVal) (s : State) :
    (0 < s.acc.len ∧ popErr e s =
      takeFrame { s with exitCause := firstCause s.exitCause (.readError e), final := true }) ∨
    (s.acc.len = 0 ∧ popErr e s =
      halt (.readError e) { s with exitCause := firstCause s.exitCause (.readError e), final := true }) := by
  unfold popErr
  by_cases h : 0 < s.acc.len
  · exact .inl ⟨h, if_pos h⟩
  · exact .inr ⟨by omega, if_neg h⟩

/-! ## Ticks and the transmitter -/

/-- All that a tick can do in `SETTLE` (R255). -/
theorem settleTick_cases (s : State) :
    (s.settleUs + 1 ≠ tSilent s.cfg ∧ settleTick s = { s with settleUs := s.settleUs + 1 }) ∨
    (s.settleUs + 1 = tSilent s.cfg ∧ settleTick s = frameDone { s with settleUs := s.settleUs + 1 }) := by
  unfold settleTick
  by_cases h : s.settleUs + 1 = tSilent s.cfg
  · exact .inr ⟨h, if_pos h⟩
  · exact .inl ⟨h, if_neg h⟩

/-- All that a tick can do (R319). -/
theorem usTick_cases (s : State) :
    (s.frState = .receive ∧ s.rxFifo = [] ∧ s.ticksHeld = 0 ∧ usTick s = countTick s) ∨
    (s.frState = .receive ∧ (s.rxFifo ≠ [] ∨ s.ticksHeld ≠ 0) ∧ usTick s = { s with ticksHeld := s.ticksHeld + 1 }) ∨
    (s.frState = .settle ∧ usTick s = settleTick s) ∨
    (s.frState ≠ .receive ∧ s.frState ≠ .settle ∧ usTick s = s) := by
  unfold usTick
  cases hs : s.frState <;> simp
  by_cases h : s.rxFifo = [] ∧ s.ticksHeld = 0
  · exact .inl ⟨h.1, h.2, fun hn => absurd h.2 (hn h.1)⟩
  · refine .inr ⟨?_, fun h1 h2 => absurd ⟨h1, h2⟩ h⟩
    by_cases h1 : s.rxFifo = []
    · exact .inr (fun h2 => h ⟨h1, h2⟩)
    · exact .inl h1

/-- All that an acceptance can do (R253). -/
theorem txAccept_cases (s : State) :
    (s.txOffer = none ∧ txAccept s = s) ∨
    (∃ b, s.txOffer = some b ∧ s.txPtr + 1 = s.txBuf.length ∧ txAccept s =
      { s with txPtr := s.txPtr + 1, wire := s.wire ++ [b], settleUs := 0, frState := .settle }) ∨
    (∃ b, s.txOffer = some b ∧ s.txPtr + 1 ≠ s.txBuf.length ∧ txAccept s =
      { s with txPtr := s.txPtr + 1, wire := s.wire ++ [b] }) := by
  unfold txAccept
  cases hb : s.txOffer with
  | none => exact .inl ⟨rfl, rfl⟩
  | some b =>
    by_cases h : s.txPtr + 1 = s.txBuf.length
    · exact .inr (.inl ⟨b, rfl, h, if_pos h⟩)
    · exact .inr (.inr ⟨b, rfl, h, if_neg h⟩)

/-- A byte is on offer in `TRANSMIT` only (R45). -/
theorem txOffer_some (s : State) (b : Byte) (h : s.txOffer = some b) :
    s.frState = .transmit ∧ s.txBuf[s.txPtr]? = some b := by
  unfold State.txOffer at h
  cases hs : s.frState <;> simp_all

/-! ## Host requests -/

/-- An access event changes the queue and its overflow bit only (R281, R314). -/
theorem emitIf_shape (k : BankId) (kind : CbKind) (a : Nat) (v : Word) (s : State) :
    ∃ q o, emitIf k kind a v s = { s with cbQueue := q, fault := { s.fault with cbOverflow := o } } := by
  unfold emitIf emit
  split
  · split
    · exact ⟨_, s.fault.cbOverflow, rfl⟩
    · exact ⟨s.cbQueue, _, rfl⟩
  · exact ⟨s.cbQueue, s.fault.cbOverflow, rfl⟩

/-- All that a Get changes (R283 to R286). -/
theorem hostGet_shape (k : BankId) (a : Word) (s : State) :
    ∃ q o r, hostGet k a s = { s with cbQueue := q, fault := { s.fault with cbOverflow := o }, hostResp := some r } := by
  unfold hostGet memRead
  split
  · obtain ⟨q, o, e⟩ := emitIf_shape k .read a.toNat (s.cell k a.toNat) s
    simp only [e]
    exact ⟨q, o, _, rfl⟩
  · exact ⟨s.cbQueue, s.fault.cbOverflow, _, rfl⟩

/-- All that a Set changes (R287 to R290). -/
theorem hostSet_shape (k : BankId) (a v : Word) (s : State) :
    ∃ b q o r, hostSet k a v s =
      { s with banks := b, cbQueue := q, fault := { s.fault with cbOverflow := o }, hostResp := some r } := by
  unfold hostSet memWrite
  split
  · obtain ⟨q, o, e⟩ := emitIf_shape k .write a.toNat (hostValue k v)
      { s with banks := bankSet s.banks k a.toNat (hostValue k v) }
    simp only [e]
    exact ⟨_, q, o, _, rfl⟩
  · exact ⟨s.banks, s.cbQueue, s.fault.cbOverflow, _, rfl⟩

/-- A host request is a Get or a Set. -/
theorem execHost_cases (op : BitVec 3) (addr value : Word) :
    (∃ k, ∀ s, exec (decodeHost op addr value) s = .next (hostGet k addr s)) ∨
    (∃ k, ∀ s, exec (decodeHost op addr value) s = .next (hostSet k addr value s)) := by
  unfold decodeHost
  split
  · exact .inl ⟨_, fun _ => rfl⟩
  · exact .inl ⟨_, fun _ => rfl⟩
  · exact .inl ⟨_, fun _ => rfl⟩
  · exact .inl ⟨_, fun _ => rfl⟩
  · exact .inr ⟨_, fun _ => rfl⟩
  · exact .inr ⟨_, fun _ => rfl⟩
  · exact .inr ⟨_, fun _ => rfl⟩
  · exact .inr ⟨_, fun _ => rfl⟩

/-- All that a host agent's request can do (R280, R9). -/
theorem runHost_cases (agent : Nat) (op : BitVec 3) (addr value : Word) (s : State) :
    (fits s.params.nHost agent = true ∧ runHost agent op addr value s = exec (decodeHost op addr value) s) ∨
    (fits s.params.nHost agent = false ∧ runHost agent op addr value s = .next s) := by
  unfold runHost hostInstr
  cases fits s.params.nHost agent <;> simp

/-! ## The decode step -/

/-- All that the decode step can do (R250). -/
theorem decodeStage_cases (s : State) :
    (s.pos ≠ .decode ∧ decodeStage s = s) ∨
    (s.pos = .decode ∧ s.quantum = some 0 ∧ decodeStage s = s) ∨
    (s.pos = .decode ∧ s.quantum = none ∧
      decodeStage s = { s with req := decodeRequest s.frame, pos := .dispatch }) ∨
    (∃ n, s.pos = .decode ∧ s.quantum = some (n + 1) ∧
      decodeStage s = { s with req := decodeRequest s.frame, pos := .dispatch, quantum := some n }) := by
  unfold decodeStage
  cases hp : s.pos <;> simp
  cases hq : s.quantum with
  | none => simp
  | some n => cases n <;> simp

/-! ## Steps and runs -/

/-- A step while the block runs and a move is listed. -/
theorem step_move (s : State) (m : Move) (rest : List Move) (hr : s.inReset = false) (h : s.sched = m :: rest) :
    step s = runMove m { s with sched := rest } := by simp [step, h, hr]

/-- A step while the block runs and no move is listed: the engine's turn. -/
theorem step_idle (s : State) (hr : s.inReset = false) (h : s.sched = []) : step s = runEngine none s := by
  simp [step, h, hr]

/-- A step while reset is asserted and a move is listed. -/
theorem step_reset (s : State) (m : Move) (rest : List Move) (hr : s.inReset = true) (h : s.sched = m :: rest) :
    step s = moveInReset m { s with sched := rest } := by simp [step, h, hr]

theorem run_succ (n : Nat) (s t u : State) (h : step s = .next t) (k : runTo n t u) : runTo (n + 1) s u := by
  unfold runTo at *
  simp only [Host.Core.run]
  rw [show Sys2Proof.core.step s = .next t from h]
  exact k

theorem run_one (s t : State) (h : step s = .next t) : runTo 1 s t := run_succ 0 s t t h rfl

theorem run_trans (m n : Nat) (s t u : State) (h : runTo m s t) (k : runTo n t u) : runTo (m + n) s u := by
  induction m generalizing s with
  | zero =>
    unfold runTo at h
    cases h
    simpa using k
  | succ m ih =>
    have hx : ∃ r, step s = .next r ∧ runTo m r t := by
      unfold runTo at h
      simp only [Host.Core.run] at h
      cases hs : Sys2Proof.core.step s with
      | next r => rw [hs] at h; exact ⟨r, hs, h⟩
      | fault r => rw [hs] at h; cases h
      | refused r => rw [hs] at h; cases h
    obtain ⟨r, h1, h2⟩ := hx
    rw [Nat.add_right_comm]
    exact run_succ _ _ _ _ h1 (ih r h2)

end Sys2Proof.Machine
end

