-- ==== Sys2Proof/Laws/PerInstr.lean ====
section
/-! SUPPORT. The family `EncodedLength`: how long the code of each operation is (R91 to R94, R114), one lemma a constructor. -/

-- One thread: the joined file is compiled under a memory limit that a thread for every theorem would exceed.
set_option Elab.async false

namespace Sys2Proof.Laws

/-- The number of bytes of an operation's frame: 8 for the formats RD and WS, 9 and the data for WM, 4 for `ILLEGAL_FN`. A host
request is no frame. -/
def EncodedLength.frameLength (i : Instr) : Option Nat :=
  match encode i with
  | .frame bytes => some bytes.length
  | .host _ _ _ => none

/-- A well-formed operation that is sent as a frame has at least the 4 bytes of an id, a function code and a CRC, and fits the
accumulation buffer of 265 bytes (R9, R91). -/
def EncodedLength.Statement (i : Instr) : Prop :=
  i.wf = true → ∀ n, EncodedLength.frameLength i = some n → 4 ≤ n ∧ n ≤ Config.accDepth - 1

end Sys2Proof.Laws

namespace Sys2Proof.Laws.EncodedLength

theorem frameLength_short (id func : Byte) (addr arg : Word) : (withCrc (shortBody id func addr arg)).length = 8 := by simp

theorem frameLength_long (id func : Byte) (addr qty : Word) (data : List Byte) :
    (withCrc (longBody id func addr qty data)).length = 9 + data.length := by simp; omega

theorem rdCoils (id : Byte) (addr qty : Word) : Statement (.rdCoils id addr qty) := by
  simp [Statement, frameLength, encode, Config.accDepth]

theorem rdDiscrete (id : Byte) (addr qty : Word) : Statement (.rdDiscrete id addr qty) := by
  simp [Statement, frameLength, encode, Config.accDepth]

theorem rdHolding (id : Byte) (addr qty : Word) : Statement (.rdHolding id addr qty) := by
  simp [Statement, frameLength, encode, Config.accDepth]

theorem rdInput (id : Byte) (addr qty : Word) : Statement (.rdInput id addr qty) := by
  simp [Statement, frameLength, encode, Config.accDepth]

theorem wrCoil (id : Byte) (addr arg : Word) : Statement (.wrCoil id addr arg) := by
  simp [Statement, frameLength, encode, Config.accDepth]

theorem wrReg (id : Byte) (addr arg : Word) : Statement (.wrReg id addr arg) := by
  simp [Statement, frameLength, encode, Config.accDepth]

theorem wrCoils (id : Byte) (addr qty : Word) (data : List Byte) : Statement (.wrCoils id addr qty data) := by
  intro h n hn
  simp only [frameLength, encode, frameLength_long, Option.some.injEq] at hn
  simp only [Instr.wf, decide_eq_true_eq] at h
  simp only [Config.accDepth]
  omega

theorem wrRegs (id : Byte) (addr qty : Word) (data : List Byte) : Statement (.wrRegs id addr qty data) := by
  intro h n hn
  simp only [frameLength, encode, frameLength_long, Option.some.injEq] at hn
  simp only [Instr.wf, decide_eq_true_eq] at h
  simp only [Config.accDepth]
  omega

theorem illegalFn (id func : Byte) : Statement (.illegalFn id func) := by
  simp [Statement, frameLength, encode, Config.accDepth]

theorem getDi (addr : Word) : Statement (.getDi addr) := by simp [Statement, frameLength, encode]

theorem getCoil (addr : Word) : Statement (.getCoil addr) := by simp [Statement, frameLength, encode]

theorem getIr (addr : Word) : Statement (.getIr addr) := by simp [Statement, frameLength, encode]

theorem getHr (addr : Word) : Statement (.getHr addr) := by simp [Statement, frameLength, encode]

theorem setDi (addr value : Word) : Statement (.setDi addr value) := by simp [Statement, frameLength, encode]

theorem setCoil (addr value : Word) : Statement (.setCoil addr value) := by simp [Statement, frameLength, encode]

theorem setIr (addr value : Word) : Statement (.setIr addr value) := by simp [Statement, frameLength, encode]

theorem setHr (addr value : Word) : Statement (.setHr addr value) := by simp [Statement, frameLength, encode]

end Sys2Proof.Laws.EncodedLength
end

