-- ==== Sys2Proof/Tests/Slice0.lean ====
section
/-! SUPPORT. Tests: the expected values are those of 95_test_vectors.md (the vector's name stands before each theorem); and a witness for the hypotheses of every obligation that has some. -/

-- One thread: the joined file is compiled under a memory limit that a thread for every theorem would exceed.
set_option Elab.async false

namespace Sys2Proof.Tests

open Sys2Proof Sys2Proof.Machine

/-! ## Helpers -/

/-- The state a step or a meaning gives, if it gives one. -/
def nextOf (o : Host.Outcome State Fault Refusal) : Option State :=
  match o with
  | .next s => some s
  | .fault _ => none
  | .refused _ => none

/-- A frame that has been decoded, in the reset configuration. -/
def ready : State := { State.reset with frState := .process, pos := .dispatch }

/-- The reset configuration with every capacity 10. -/
def cfg10 : Cfg := { Config.resetCfg with capDi := 10, capCoil := 10, capIr := 10, capHr := 10 }

/-- A decoded frame with every capacity 10. -/
def ready10 : State := { ready with cfg := cfg10 }

/-- The block in `RECEIVE` with a silent interval of 3 ticks. -/
def quiet : State := { State.reset with cfg := { Config.resetCfg with silentOvr := 3 } }

/-- The bytes of the reply on offer after a meaning, and the outcome register. -/
def reply (o : Host.Outcome State Fault Refusal) : Option (List Byte × DispOut) :=
  (nextOf o).map (fun t => (t.txBuf, t.dispOut))

/-- `n` zero bytes. -/
def zeros (n : Nat) : List Byte := List.replicate n 0

/-! ## WellFormed: each check refuses an ill-formed term -/

theorem test_wf_wrCoils_256 : (Instr.wrCoils 1 0 8 (zeros 256)).wf = false := by decide +kernel

theorem test_wf_wrRegs_256 : (Instr.wrRegs 1 0 8 (zeros 256)).wf = false := by decide +kernel

theorem test_wf_illegalFn_standard : (Instr.illegalFn 1 16).wf = false := by decide

theorem test_wf_bounds : (Instr.wrCoils 1 0 8 (zeros 255)).wf = true ∧ (Instr.wrRegs 1 0 8 (zeros 255)).wf = true ∧
    (Instr.illegalFn 1 17).wf = true := by decide +kernel

/-! ## Decoding: words written out from the spec -/

/-- RD1. -/
theorem test_decode_rdCoils : decode (.frame [0x01, 0x01, 0x00, 0x00, 0x00, 0x0A, 0xBC, 0x0D]) = .instr (.rdCoils 1 0 10) := by
  decide +kernel

/-- RD6. -/
theorem test_decode_rdDiscrete : decode (.frame [0x01, 0x02, 0x00, 0x00, 0x00, 0x04, 0x79, 0xC9]) = .instr (.rdDiscrete 1 0 4) := by
  decide +kernel

/-- RD7. -/
theorem test_decode_rdHolding : decode (.frame [0x01, 0x03, 0x00, 0x00, 0x00, 0x02, 0xC4, 0x0B]) = .instr (.rdHolding 1 0 2) := by
  decide +kernel

/-- RD8. -/
theorem test_decode_rdInput : decode (.frame [0x01, 0x04, 0x00, 0x05, 0x00, 0x01, 0x21, 0xCB]) = .instr (.rdInput 1 5 1) := by
  decide +kernel

/-- WR4. -/
theorem test_decode_wrCoil : decode (.frame [0x01, 0x05, 0x00, 0x00, 0x12, 0x34, 0xC0, 0xBD]) = .instr (.wrCoil 1 0 0x1234) := by
  decide +kernel

/-- WR7. -/
theorem test_decode_wrReg : decode (.frame [0x01, 0x06, 0x00, 0x01, 0x00, 0x03, 0x98, 0x0B]) = .instr (.wrReg 1 1 3) := by
  decide +kernel

/-- WR9. -/
theorem test_decode_wrCoils : decode (.frame [0x01, 0x0F, 0x00, 0x13, 0x00, 0x0A, 0x02, 0xCD, 0x01, 0x72, 0xCB]) =
    .instr (.wrCoils 1 19 10 [0xCD, 0x01]) := by decide +kernel

/-- WR16. -/
theorem test_decode_wrRegs : decode (.frame [0x01, 0x10, 0x00, 0x00, 0x00, 0x01, 0x04, 0x11, 0x11, 0x22, 0x22, 0x3E, 0x1C]) =
    .instr (.wrRegs 1 0 1 [0x11, 0x11, 0x22, 0x22]) := by decide +kernel

/-- D11, D12: neither length nor CRC is checked. -/
theorem test_decode_illegalFn : decode (.frame [0x01, 0x07, 0x41, 0xE2]) = .instr (.illegalFn 1 7) ∧
    decode (.frame [0x01, 0x81, 0x00, 0x00]) = .instr (.illegalFn 1 0x81) := by decide +kernel

/-- HP2, HP13, HP11, HP6: the Gets. -/
theorem test_decode_get : decode (.host 0b000 3 0) = .instr (.getDi 3) ∧ decode (.host 0b001 0 0) = .instr (.getCoil 0) ∧
    decode (.host 0b010 0 0) = .instr (.getIr 0) ∧ decode (.host 0b011 7 0) = .instr (.getHr 7) := by decide

/-- HP1, HP3, HP4, HP5: the Sets. -/
theorem test_decode_set : decode (.host 0b100 3 1) = .instr (.setDi 3 1) ∧
    decode (.host 0b101 5 0x8000) = .instr (.setCoil 5 0x8000) ∧ decode (.host 0b110 5 0xFF) = .instr (.setIr 5 0xFF) ∧
    decode (.host 0b111 7 0xBEEF) = .instr (.setHr 7 0xBEEF) := by decide

/-- D5, D7, D9, D13: rejected by name. -/
theorem test_decode_rejects : decode (.frame [0x01, 0x01, 0x00, 0x00, 0x00, 0x18, 0x3C]) = .damaged ∧
    decode (.frame [0x01, 0x0F, 0x00, 0x00, 0x00, 0x02, 0x02, 0xFF, 0x9E, 0x27]) = .damaged ∧
    decode (.frame [0x01, 0x10, 0x00, 0x00, 0x00, 0x01]) = .damaged ∧
    decode (.frame [0x01, 0x03, 0x00, 0x00, 0x00, 0x01, 0x84, 0x00]) = .crcMismatch := by decide +kernel

/-- D6, D14. -/
theorem test_decode_edges : (decodeRequest (frameOf [0x01])).id = 1 ∧ decode (.frame [0x01]) = .damaged ∧
    decode (.frame ([0x01, 0x10] ++ zeros 264)) = .damaged := by decide +kernel

/-- V4, V9, V11. -/
theorem test_crc : crc16 [0x31, 0x32, 0x33, 0x34, 0x35, 0x36, 0x37, 0x38, 0x39] = 0x4B37 ∧ crc16 [0, 0] = 0xB001 ∧
    crc16 [0x01, 0x80, 0x01] = 0x0080 := by decide +kernel

/-! ## The words of the opcode table, and the step that fetches them -/

theorem test_table_words : decodeTableWord 8 1 = some (.rdCoils 1 0 0) ∧ decodeTableWord 8 5 = some (.wrCoil 1 0 0) ∧
    decodeTableWord 8 16 = some (.wrRegs 1 0 0 []) ∧ decodeTableWord 8 0x2B = some (.illegalFn 1 0x2B) ∧
    decodeTableWord 8 0 = some (.getDi 0) ∧ decodeTableWord 8 7 = some (.setHr 0 0) := by decide +kernel

/-- The first step after reset runs the placed word: WR10 at address 0 with no data, and a Set. -/
theorem test_fetch : reply (step (State.reset.withFetchWord 8 15)) =
      some ([0x01, 0x0F, 0x00, 0x00, 0x00, 0x00, 0x55, 0xCB], .dispatched) ∧
    (nextOf (step (State.reset.withFetchWord 8 7))).map State.hostResp = some (some .ok) := by decide +kernel

/-! ## The meanings, one step each -/

/-- RD2, RD3. -/
theorem test_rdCoils : reply (exec (.rdCoils 1 0 10) { ready with banks := ⟨[], [(0, 1), (2, 1), (9, 1)], [], []⟩ }) =
      some ([0x01, 0x01, 0x02, 0x05, 0x02, 0x3B, 0x6D], .dispatched) ∧
    (nextOf (exec (.rdCoils 1 0 0) ready)).map (fun t => (t.frState, t.txBuf, t.idleUs)) = some (.receive, [], 0) := by
  decide +kernel

/-- RD4, RD5, RD13, RD14: the range check. -/
theorem test_rdCoils_range : reply (exec (.rdCoils 1 0xFFFF 1) ready) = some ([0x01, 0x81, 0x02, 0xC1, 0x91], .dispatched) ∧
    reply (exec (.rdCoils 1 0xFFFE 1) ready) = some ([0x01, 0x01, 0x01, 0x00, 0x51, 0x88], .dispatched) ∧
    reply (exec (.rdCoils 1 0 10) ready10) = some ([0x01, 0x81, 0x02, 0xC1, 0x91], .dispatched) ∧
    reply (exec (.rdCoils 1 0 9) ready10) = some ([0x01, 0x01, 0x02, 0x00, 0x00, 0xB9, 0xFC], .dispatched) := by decide +kernel

/-- RD6. -/
theorem test_rdDiscrete : reply (exec (.rdDiscrete 1 0 4) { ready with banks := ⟨[(3, 1)], [], [], []⟩ }) =
    some ([0x01, 0x02, 0x01, 0x08, 0xA0, 0x4E], .dispatched) := by decide +kernel

/-- RD7. -/
theorem test_rdHolding : reply (exec (.rdHolding 1 0 2) { ready with banks := ⟨[], [], [], [(0, 0x1234), (1, 0xABCD)]⟩ }) =
    some ([0x01, 0x03, 0x04, 0x12, 0x34, 0xAB, 0xCD, 0x00, 0x20], .dispatched) := by decide +kernel

/-- RD10 (the byte count is 256 mod 256), RD15 (an event). -/
theorem test_rdHolding_long : (readReply ⟨1, 3, 0, 0, zeros 256, false⟩).take 3 = [0x01, 0x03, 0x00] ∧
    (nextOf (exec (.rdHolding 1 0 1) { ready with cfg := { Config.resetCfg with cbHr := [0] } })).map State.cbQueue =
      some [⟨.hr, .read, 0, 0⟩] := by decide +kernel

/-- RD8. -/
theorem test_rdInput : reply (exec (.rdInput 1 5 1) { ready with banks := ⟨[], [], [(5, 0x00FF)], []⟩ }) =
    some ([0x01, 0x04, 0x02, 0x00, 0xFF, 0xF9, 0x70], .dispatched) := by decide +kernel

/-- WR4, WR3. -/
theorem test_wrCoil : reply (exec (.wrCoil 1 0 0x1234) ready) =
      some ([0x01, 0x05, 0x00, 0x00, 0x12, 0x34, 0xC0, 0xBD], .dispatched) ∧
    (nextOf (exec (.wrCoil 1 0 0x1234) ready)).map (fun t => t.banks.coil) = some [(0, 1)] ∧
    (nextOf (exec (.wrCoil 1 0 0) { ready with banks := ⟨[], [(0, 1)], [], []⟩ })).map (fun t => t.banks.coil) = some [] := by
  decide +kernel

/-- WR5, WR6: the store check is not the range check. -/
theorem test_wrCoil_range : reply (exec (.wrCoil 1 10 0xFF00) ready10) = some ([0x01, 0x85, 0x02, 0xC3, 0x51], .dispatched) ∧
    reply (exec (.wrCoil 1 9 0xFF00) ready10) = some ([0x01, 0x05, 0x00, 0x09, 0xFF, 0x00, 0x5C, 0x38], .dispatched) := by
  decide +kernel

/-- WR7, WR8. -/
theorem test_wrReg : (nextOf (exec (.wrReg 1 1 3) ready)).map (fun t => (t.txBuf, t.banks.hr)) =
      some ([0x01, 0x06, 0x00, 0x01, 0x00, 0x03, 0x98, 0x0B], [(1, 3)]) ∧
    (nextOf (exec (.wrReg 1 10 0x1234) ready10)).map (fun t => (t.txBuf, t.banks.hr)) =
      some ([0x01, 0x86, 0x02, 0xC3, 0xA1], []) := by decide +kernel

/-- WR21, a broadcast: stored, not answered. -/
theorem test_wrReg_broadcast : (nextOf (exec (.wrReg 255 2 7) ready)).map (fun t => (t.txBuf, t.banks.hr, t.frState, t.dispOut)) =
    some ([], [(2, 7)], .receive, .broadcastSuppressed) := by decide +kernel

/-- WR9. -/
theorem test_wrCoils : (nextOf (exec (.wrCoils 1 19 10 [0xCD, 0x01]) ready)).map (fun t => (t.txBuf, t.banks.coil)) =
    some ([0x01, 0x0F, 0x00, 0x13, 0x00, 0x0A, 0x24, 0x09],
      [(19, 1), (21, 1), (22, 1), (25, 1), (26, 1), (27, 1)]) := by decide +kernel

/-- WR11, WR12. -/
theorem test_wrCoils_edges : (nextOf (exec (.wrCoils 1 0 12 [0xFF]) ready)).map (fun t => (t.txBuf, t.banks.coil.length)) =
      some ([0x01, 0x0F, 0x00, 0x00, 0x00, 0x0C, 0x55, 0xCE], 8) ∧
    reply (exec (.wrCoils 1 0xFFFF 0 []) ready) =
      some ([0x01, 0x0F, 0xFF, 0xFF, 0x00, 0x00, 0x55, 0xEF], .dispatched) := by decide +kernel

/-- WR13, WR15. -/
theorem test_wrRegs : (nextOf (exec (.wrRegs 1 1 2 [0x00, 0x0A, 0x01, 0x02]) ready)).map (fun t => (t.txBuf, t.banks.hr)) =
      some ([0x01, 0x10, 0x00, 0x01, 0x00, 0x02, 0x10, 0x08], [(1, 0x000A), (2, 0x0102)]) ∧
    (nextOf (exec (.wrRegs 1 10 2 [0x12, 0x34]) { ready with banks := ⟨[], [], [], [(11, 0x5555)]⟩ })).map
      (fun t => (t.txBuf, t.banks.hr)) =
      some ([0x01, 0x10, 0x00, 0x0A, 0x00, 0x02, 0x61, 0xCA], [(10, 0x1234), (11, 0x5555)]) := by decide +kernel

/-- WR14, WR17: exception 3, and the range check before it. -/
theorem test_wrRegs_exceptions : reply (exec (.wrRegs 1 1 1 [0x00, 0x0A, 0x01]) ready) =
      some ([0x01, 0x90, 0x03, 0x0C, 0x01], .dispatched) ∧
    reply (exec (.wrRegs 1 0xFFFF 1 [1, 2, 3]) ready) = some ([0x01, 0x90, 0x02, 0xCD, 0xC1], .dispatched) := by decide +kernel

/-- X7, X8. -/
theorem test_illegalFn : reply (exec (.illegalFn 1 7) ready) = some ([0x01, 0x87, 0x01, 0x82, 0x30], .dispatched) ∧
    reply (exec (.illegalFn 1 0x81) ready) = some ([0x01, 0x81, 0x01, 0x81, 0x90], .dispatched) := by decide +kernel

/-- HP2, HP8, HP11, HP13. -/
theorem test_get : (nextOf (exec (.getDi 3) { State.reset with banks := ⟨[(3, 1)], [], [], []⟩ })).map State.hostResp =
      some (some (.value 1)) ∧
    (nextOf (exec (.getHr 10) { State.reset with cfg := cfg10 })).map State.hostResp = some (some (.value 0)) ∧
    (nextOf (exec (.getIr 0) { State.reset with
        cfg := { Config.resetCfg with cbIr := [0] }, banks := ⟨[], [], [(0, 9)], []⟩ })).map
      (fun t => (t.hostResp, t.cbQueue)) = some (some (.value 9), [⟨.ir, .read, 0, 9⟩]) ∧
    (nextOf (exec (.getCoil 0) { State.reset with frState := .halted, banks := ⟨[], [(0, 1)], [], []⟩ })).map State.hostResp =
      some (some (.value 1)) := by decide +kernel

/-- HP3, HP5, HP7, HP1, HP4. -/
theorem test_set : (nextOf (exec (.setCoil 5 0x8000) State.reset)).map (fun t => (t.hostResp, t.banks.coil)) =
      some (some .ok, [(5, 1)]) ∧
    (nextOf (exec (.setHr 7 0xBEEF) State.reset)).map (fun t => (t.hostResp, t.banks.hr)) = some (some .ok, [(7, 0xBEEF)]) ∧
    (nextOf (exec (.setHr 10 1) { State.reset with cfg := cfg10 })).map (fun t => (t.hostResp, t.banks.hr)) =
      some (some .err, []) ∧
    (nextOf (exec (.setDi 3 1) State.reset)).map (fun t => t.banks.di) = some [(3, 1)] ∧
    (nextOf (exec (.setIr 5 0x00FF) State.reset)).map (fun t => t.banks.ir) = some [(5, 0x00FF)] := by decide +kernel

/-- HP12. -/
theorem test_set_full_queue : (nextOf (exec (.setHr 0 4) { State.reset with
      cfg := { Config.resetCfg with cbHr := [0] }, params := ⟨none, some 1, none⟩, cbQueue := [⟨.di, .read, 0, 0⟩] })).map
    (fun t => (t.hostResp, t.banks.hr, t.cbQueue.length, t.fault)) = some (some .ok, [(0, 4)], 1, ⟨false, true⟩) := by
  decide +kernel

/-! ## The framer: 95_test_vectors.md part 2.7 -/

/-- `T_SILENT` at the rates of the table. -/
theorem test_tSilent : tSilent { Config.resetCfg with baud := 9600 } = 3645 ∧ tSilent { Config.resetCfg with baud := 19200 } = 1822 ∧
    tSilent { Config.resetCfg with baud := 19201 } = 1750 ∧ tSilent { Config.resetCfg with baud := 1 } = 35000000 ∧
    tSilent { Config.resetCfg with baud := -1 } = 1750 ∧
    tSilent { Config.resetCfg with baud := 115200, silentOvr := 5000 } = 5000 := by decide

/-- F2, F3. -/
theorem test_tick_expiry :
    (nextOf (step { quiet with acc := ⟨[1, 2, 3], 3, false⟩, idleUs := 2, sched := [.usTick] })).map
      (fun t => (t.frState, t.frame.bytes, t.acc.len)) = some (.process, [1, 2, 3], 0) ∧
    (nextOf (step { quiet with idleUs := 2, sched := [.usTick] })).map (fun t => (t.frState, t.idleUs)) =
      some (.receive, 0) := by decide +kernel

/-- F5. -/
theorem test_pop_overflow : (accAppend 9 ⟨zeros 265, 265, false⟩) = ⟨zeros 265, 266, true⟩ := by decide +kernel

/-- F6, F7. -/
theorem test_pop_error :
    (nextOf (step { quiet with acc := ⟨zeros 8, 8, false⟩, rxFifo := [.err 5], sched := [.engine none] })).map
      (fun t => (t.frState, t.exitCause, t.final, t.frame.len)) = some (.process, .readError 5, true, 8) ∧
    (nextOf (step { quiet with rxFifo := [.err 5], sched := [.engine none] })).map (fun t => (t.frState, t.exitCause)) =
      some (.halted, .readError 5) := by decide +kernel

/-- F13, F14. -/
theorem test_settle :
    (nextOf (step { quiet with frState := .settle, settleUs := 2, sched := [.usTick] })).map (fun t => (t.frState, t.idleUs)) =
      some (.receive, 0) ∧
    (nextOf (step { quiet with
        frState := .settle, settleUs := 2, final := true, exitCause := .readError 1, sched := [.usTick] })).map
      (fun t => (t.frState, t.exitCause)) = some (.halted, .readError 1) := by decide +kernel

/-- F15, F16. -/
theorem test_overrun :
    (nextOf (step { quiet with params := ⟨some 1, none, none⟩, rxFifo := [.byte 1], sched := [.rxByte 2] })).map
      (fun t => (t.frState, t.exitCause, t.rxFifo, t.fault)) = some (.halted, .rxOverrun, [], ⟨true, false⟩) ∧
    (nextOf (step { quiet with
        params := ⟨some 1, none, none⟩, frState := .settle, rxFifo := [.byte 1], sched := [.rxByte 2] })).map
      (fun t => (t.frState, t.final, t.rxFifo)) = some (.settle, true, [.byte 1]) := by decide +kernel

/-- X5: the address filter comes before the parse check. -/
theorem test_reject_unaddressed :
    (nextOf (step { quiet with
        frState := .process, frame := frameOf [0x02, 0x01, 0x00, 0x00, 0x00, 0x08, 0x3D, 0xCD], sched := [.engine none] })).map
      (fun t => (t.frState, t.dispOut, t.req.result)) = some (.receive, .unaddressed, .crcMismatch) := by decide +kernel

/-- R28. -/
theorem test_refuse_configuration :
    nextOf (step { State.reset with
      inReset := true, sched := [.cfgWrite { Config.resetCfg with capHr := 65537 }] }) = none := by decide +kernel

end Sys2Proof.Tests
end

