-- ==== Sys2Proof/Tests/Witness0.lean ====
section
/-! SUPPORT. For every obligation with hypotheses, a concrete state and operands that meet all of them together: one theorem an obligation, and a part for each clause, at a boundary value of its range. -/

-- One thread: the joined file is compiled under a memory limit that a thread for every theorem would exceed.
set_option Elab.async false

namespace Sys2Proof.Tests

open Sys2Proof Sys2Proof.Machine

/-! ## Building blocks -/

theorem ready_Ready : Ready ready := ⟨rfl, rfl, rfl⟩

theorem ready10_Ready : Ready ready10 := ⟨rfl, rfl, rfl⟩

/-- Every standard code is enabled in the reset configuration. -/
theorem enabled_all : ∀ f ∈ standardCodes, Enabled Config.resetCfg f := by
  unfold Enabled
  decide

theorem enabled10_all : ∀ f ∈ standardCodes, Enabled cfg10 f := by
  unfold Enabled
  decide

theorem handled (f : Byte) (h : f ∈ standardCodes) : Handled ready 1 f := ⟨.inl rfl, enabled_all f h⟩

theorem handled10 (f : Byte) (h : f ∈ standardCodes) : Handled ready10 1 f := ⟨.inl rfl, enabled10_all f h⟩

/-- The block with reset asserted. -/
def held : State := { State.reset with inReset := true }

/-! ## The wire format -/

theorem wit_DecodeOfEncodeIsTheInstruction : (Instr.wrCoils 1 0 8 (zeros 255)).wf = true ∧ (Instr.wrRegs 255 0xFFFF 0 []).wf = true ∧
    (Instr.illegalFn 1 14).wf = true ∧ (Instr.rdCoils 0 0xFFFF 0xFFFF).wf = true := by decide +kernel

theorem wit_EncodeOfDecodeIsTheFrame :
    decode (.frame [0x01, 0x01, 0x00, 0x00, 0x00, 0x08, 0x3D, 0xCC]) = .instr (.rdCoils 1 0 8) ∧
      ∀ id func, (Instr.rdCoils 1 0 8) ≠ .illegalFn id func :=
  ⟨by decide +kernel, fun _ _ h => nomatch h⟩

/-- The clauses: one byte; two bytes with an unknown code; a known code with 8 bytes too few or too many by one; both fitting forms. -/
theorem wit_DecoderReportsFirstFailure : ([0x01] : List Byte).length < 2 ∧
    (2 ≤ ([0x01, 0x00] : List Byte).length ∧ ([0x01, 0x00] : List Byte).getD 1 0 ∉ standardCodes) ∧
    (([0x01, 0x06] ++ zeros 5 : List Byte).getD 1 0 ∈ standardCodes ∧ ¬ LengthFits ([0x01, 0x06] ++ zeros 5)) ∧
    (([0x01, 0x10] ++ zeros 8 : List Byte).getD 1 0 ∈ standardCodes ∧ ¬ LengthFits ([0x01, 0x10] ++ zeros 8)) ∧
    LengthFits ([0x01, 0x06] ++ zeros 6) ∧ LengthFits ([0x01, 0x10] ++ zeros 7) := by
  unfold LengthFits
  decide

theorem wit_OverlongFrameOutcome : Config.accDepth < (Frame.mk ([1, 16] ++ zeros 263) 266 true).len ∧
    (Frame.mk ([1, 16] ++ zeros 263) 266 true).bytes.getD 1 0 ∈ standardCodes ∧
    Config.accDepth < (Frame.mk ([1, 17] ++ zeros 263) 266 true).len ∧
    (Frame.mk ([1, 17] ++ zeros 263) 266 true).bytes.getD 1 0 ∉ standardCodes := by decide

/-- E1, E3, E4: each of the three formats. -/
theorem wit_EveryAduIsWellFormed : getAdu ⟨1, 1, 0, 0, [5], false⟩ = .bytes [0x01, 0x01, 0x01, 0x05, 0x91, 0x8B] ∧
    getAdu ⟨1, 5, 0, 0, [0xFF, 0], false⟩ = .bytes [0x01, 0x05, 0x00, 0x00, 0xFF, 0x00, 0x8C, 0x3A] ∧
    getAdu ⟨1, 0x80, 1, 0, [], false⟩ = .bytes [0x01, 0x80, 0x01, 0x80, 0x00] := by decide +kernel

/-- E8, E2, E6, E5, E7: each reason, and beside it the bytes of E1, E3 and E4. -/
theorem wit_GetAduFailures : (Response.mk 1 1 0 0 [5] true).unanswered = true ∧ (Response.mk 1 1 0 0 [5] false).unanswered = false ∧
    ((Response.mk 1 4 0 0 [] false).func ∈ ([1, 2, 3, 4] : List Byte) ∧ (Response.mk 1 4 0 0 [] false).data = [] ∧
      (Response.mk 1 1 0 0 [5] false).data ≠ []) ∧
    ((Response.mk 1 16 0 0 [0xFF] false).func ∈ ([5, 6, 15, 16] : List Byte) ∧
      (Response.mk 1 16 0 0 [0xFF] false).data.length < 2 ∧ ¬ (Response.mk 1 5 0 0 [0xFF, 0] false).data.length < 2) ∧
    ((Response.mk 1 0x83 0 0 [] false).func.getLsbD 7 = true ∧ (Response.mk 1 0x83 0 0 [] false).err = 0 ∧
      (Response.mk 1 0x80 1 0 [] false).err ≠ 0) ∧
    ((Response.mk 1 7 0 0 [] false).func.getLsbD 7 = false ∧ (Response.mk 1 7 0 0 [] false).func ∉ standardCodes) := by
  decide

/-! ## The dispatcher -/

theorem wit_UnaddressedRequestIsIgnored :
    WireRequest (.rdCoils 2 0 8) 2 1 ∧ Ready ready ∧ (2 : Byte) ≠ ready.cfg.slaveId ∧ (2 : Byte) ≠ 255 :=
  ⟨.inl ⟨0, 8, rfl, rfl⟩, ready_Ready, by decide, by decide⟩

/-- A frame in `PROCESS`, with the engine's turn next. -/
def taken (bytes : List Byte) : State :=
  { State.reset with frState := .process, frame := frameOf bytes, sched := [.engine none] }

/-- A taken frame whose decode step is done, at position `p`. -/
def decoded (bytes : List Byte) (p : Pos) : State :=
  { taken bytes with req := decodeRequest (frameOf bytes), pos := p }

/-- X4: an addressed frame with a wrong CRC. -/
def wrongCrc : List Byte := [0x01, 0x01, 0x00, 0x00, 0x00, 0x08, 0x3D, 0xCD]

/-- X5: a frame of two bytes that is not addressed. -/
def tooShort : List Byte := [0x02, 0x03]

theorem wrongCrc_rejected : RejectedBytes (frameOf wrongCrc) := .inr (by decide +kernel)

theorem tooShort_rejected : RejectedBytes (frameOf tooShort) := .inl (by decide +kernel)

/-- At the decode step, at the dispatcher and at the end of the frame; an unlimited turn, one of no step, and those that are just
too short and just long enough. -/
theorem wit_RejectedFrameIsNeverAnswered :
    ((taken wrongCrc).inReset = false ∧ (taken wrongCrc).sched = .engine none :: [] ∧ (taken wrongCrc).frState = .process ∧
      Rejected (taken wrongCrc) ∧ Addressed (taken wrongCrc).cfg (decodeRequest (frameOf wrongCrc)).id) ∧
    ({ taken wrongCrc with sched := [.engine (some 0)] } : State).sched = .engine (some 0) :: [] ∧
    (2 < stepsLeft (taken wrongCrc).pos ∧ stepsLeft (taken wrongCrc).pos ≤ 3) ∧
    (Rejected (decoded tooShort .dispatch) ∧ 1 < stepsLeft (decoded tooShort .dispatch).pos ∧
      stepsLeft (decoded tooShort .dispatch).pos ≤ 2 ∧
      ¬ Addressed (decoded tooShort .dispatch).cfg (decodeRequest (frameOf tooShort)).id) ∧
    Rejected { decoded tooShort .encode with
      resp := ⟨2, 3, 0, 0, [], true⟩, dispOut := .unaddressed } ∧
    stepsLeft .encode = 1 := by
  have h : ¬ Addressed State.reset.cfg (decodeRequest (frameOf tooShort)).id := by unfold Addressed; decide +kernel
  exact ⟨⟨rfl, rfl, rfl, ⟨wrongCrc_rejected, .inl rfl⟩, .inl (by decide +kernel)⟩, rfl, by decide,
    ⟨⟨tooShort_rejected, .inr ⟨rfl, .inl rfl⟩⟩, by decide, by decide, h⟩,
    ⟨tooShort_rejected, .inr ⟨rfl, .inr ⟨rfl, rfl, fun a => absurd a h, fun _ => rfl⟩⟩⟩, rfl⟩

/-- The configuration of X9: function code 3 is disabled. -/
def disabled3 : Cfg := { Config.resetCfg with handlerEn := 0xFB }

theorem wit_AbsentHandlerAnswersException1 :
    (WireRequest (.illegalFn 1 7) 1 7 ∧ Ready ready ∧ Addressed ready.cfg 1 ∧ ¬ Enabled ready.cfg 7) ∧
    (WireRequest (.rdHolding 1 0 1) 1 3 ∧ Ready { ready with cfg := disabled3 } ∧ Addressed disabled3 1 ∧
      ¬ Enabled disabled3 3) := by
  refine ⟨⟨?_, ready_Ready, .inl rfl, ?_⟩, ⟨.inr (.inr (.inl ⟨0, 1, rfl, rfl⟩)), ⟨rfl, rfl, rfl⟩, .inl rfl, ?_⟩⟩
  · unfold WireRequest; simp
  · unfold Enabled; decide
  · unfold Enabled; decide

theorem wit_BroadcastIsNeverAnswered : WireRequest (.wrReg 255 2 7) 255 6 ∧ Ready ready :=
  ⟨.inr (.inr (.inr (.inr (.inr (.inl ⟨2, 7, rfl, rfl⟩))))), ready_Ready⟩

theorem wit_ExceptionsArePrecise : WireRequest (.rdCoils 1 0xFFFF 1) 1 1 ∧ Ready ready ∧
    ∃ t, exec (.rdCoils 1 0xFFFF 1) ready = .next t ∧ t.resp.err ≠ 0 :=
  ⟨.inl ⟨0xFFFF, 1, rfl, rfl⟩, ready_Ready, _, rfl, by decide +kernel⟩

theorem wit_NoRequestWritesDiscreteOrInput : WireRequest (.wrCoil 1 0 0xFF00) 1 5 ∧
    ∃ t, exec (.wrCoil 1 0 0xFF00) ready = .next t :=
  ⟨.inr (.inr (.inr (.inr (.inl ⟨0, 0xFF00, rfl, rfl⟩)))), _, rfl⟩

/-! ## The read units: at the capacity, just below it, and with quantity 0 -/

theorem wit_BitReadRepliesPackedCells : BitRead (.rdCoils 1 0 10) .coil 1 1 0 10 ∧ BitRead (.rdDiscrete 1 0 9) .di 1 2 0 9 ∧
    Ready ready10 ∧ Handled ready10 1 1 ∧ Handled ready10 1 2 ∧
    capOf ready10.cfg .coil ≤ (0 : Word).toNat + (10 : Word).toNat ∧
    ((0 : Word).toNat + (9 : Word).toNat < capOf ready10.cfg .di ∧ (9 : Word) ≠ 0) ∧
    BitRead (.rdCoils 1 9 0) .coil 1 1 9 0 ∧ (9 : Word).toNat + (0 : Word).toNat < capOf ready10.cfg .coil :=
  ⟨.inl ⟨rfl, rfl, rfl⟩, .inr ⟨rfl, rfl, rfl⟩, ready10_Ready, handled10 1 (by decide), handled10 2 (by decide), by decide,
    by decide, .inl ⟨rfl, rfl, rfl⟩, by decide⟩

theorem wit_WordReadRepliesCells : WordRead (.rdHolding 1 0 10) .hr 1 3 0 10 ∧ WordRead (.rdInput 1 0 9) .ir 1 4 0 9 ∧
    Ready ready10 ∧ Handled ready10 1 3 ∧ Handled ready10 1 4 ∧
    capOf ready10.cfg .hr ≤ (0 : Word).toNat + (10 : Word).toNat ∧
    ((0 : Word).toNat + (9 : Word).toNat < capOf ready10.cfg .ir ∧ (9 : Word) ≠ 0) ∧
    WordRead (.rdHolding 1 9 0) .hr 1 3 9 0 ∧ (9 : Word).toNat + (0 : Word).toNat < capOf ready10.cfg .hr :=
  ⟨.inl ⟨rfl, rfl, rfl⟩, .inr ⟨rfl, rfl, rfl⟩, ready10_Ready, handled10 3 (by decide), handled10 4 (by decide), by decide,
    by decide, .inl ⟨rfl, rfl, rfl⟩, by decide⟩

/-! ## The write units -/

theorem wit_SingleWriteStoresAndEchoes : SingleWrite (.wrCoil 1 9 0xFF00) .coil 1 5 9 0xFF00 1 ∧
    SingleWrite (.wrReg 1 10 7) .hr 1 6 10 7 7 ∧ Ready ready10 ∧ Handled ready10 1 5 ∧ Handled ready10 1 6 ∧
    (9 : Word).toNat < capOf ready10.cfg .coil ∧ capOf ready10.cfg .hr ≤ (10 : Word).toNat :=
  ⟨.inl ⟨rfl, rfl, rfl, by decide⟩, .inr ⟨rfl, rfl, rfl, rfl⟩, ready10_Ready, handled10 5 (by decide), handled10 6 (by decide),
    by decide, by decide⟩

theorem wit_WriteCoilsStoresDataBits : Ready ready10 ∧ Handled ready10 1 15 ∧
    (1 : Word).toNat + (8 : Word).toNat < capOf ready10.cfg .coil ∧
    capOf ready10.cfg .coil ≤ (2 : Word).toNat + (8 : Word).toNat :=
  ⟨ready10_Ready, handled10 15 (by decide), by decide, by decide⟩

/-- In range with 2 data bytes, in range with 3, out of range. -/
theorem wit_WriteRegsStoresDataWords : Ready ready10 ∧ Handled ready10 1 16 ∧
    ((8 : Word).toNat + (1 : Word).toNat < capOf ready10.cfg .hr ∧ ([1, 2] : List Byte).length % 2 = 0) ∧
    ([1, 2, 3] : List Byte).length % 2 = 1 ∧ capOf ready10.cfg .hr ≤ (9 : Word).toNat + (1 : Word).toNat :=
  ⟨ready10_Ready, handled10 16 (by decide), by decide, by decide, by decide⟩

/-- Half done before the first store, and after the last one. -/
theorem wit_MultipleWriteIsSeenHalfDone :
    MultiWrite (.wrRegs 1 0 2 [0, 1, 0, 2]) .hr 1 16 0 2 [0, 1, 0, 2] 2 (dataWord [0, 1, 0, 2]) ∧
    ready.frState = .process ∧ ready.pos = .dispatch ∧ (ready.setQuantum (some (0 + 1))).quantum = some (0 + 1) ∧
    (ready.setQuantum (some (2 + 1))).quantum = some (2 + 1) ∧ Handled ready 1 16 ∧
    (0 : Word).toNat + (2 : Word).toNat < capOf ready.cfg .hr ∧ ([0, 1, 0, 2] : List Byte).length % 2 = 0 :=
  ⟨.inr ⟨rfl, rfl, rfl, by decide, fun _ => rfl⟩, rfl, rfl, rfl, rfl, handled 16 (by decide), by decide, by decide⟩

theorem wit_PreemptedFrameResumesToSameEnd : WireRequest (.wrRegs 1 0 2 [0, 1, 0, 2]) 1 16 ∧
    ∃ t, exec (.wrRegs 1 0 2 [0, 1, 0, 2]) (ready.setQuantum (some 2)) = .next t ∧ t.pos = .access 1 [] :=
  ⟨.inr (.inr (.inr (.inr (.inr (.inr (.inr (.inl ⟨0, 2, [0, 1, 0, 2], rfl, rfl⟩))))))), _, rfl, by decide +kernel⟩

/-! ## The access primitives and the host port -/

theorem wit_MemReadRule : 9 < capOf cfg10 .di ∧ capOf cfg10 .di ≤ 10 := by decide

theorem wit_MemWriteRule : ((BankId.coil = .di ∨ BankId.coil = .coil) → (1 : Word) = 0 ∨ (1 : Word) = 1) ∧
    9 < capOf cfg10 .coil ∧ capOf cfg10 .coil ≤ 10 := by decide

theorem wit_HostGetAnswersCell : HostGetOp (.getIr 9) .ir 9 ∧ (9 : Word).toNat < capOf cfg10 .ir ∧
    HostGetOp (.getHr 10) .hr 10 ∧ capOf cfg10 .hr ≤ (10 : Word).toNat :=
  ⟨.inr (.inr (.inl ⟨rfl, rfl⟩)), by decide, .inr (.inr (.inr ⟨rfl, rfl⟩)), by decide⟩

theorem wit_HostSetStoresValue : HostSetOp (.setCoil 9 0x8000) .coil 9 0x8000 1 ∧ (9 : Word).toNat < capOf cfg10 .coil ∧
    HostSetOp (.setHr 10 1) .hr 10 1 1 ∧ capOf cfg10 .hr ≤ (10 : Word).toNat :=
  ⟨.inr (.inl ⟨rfl, rfl, by decide⟩), by decide, .inr (.inr (.inr ⟨rfl, rfl, rfl⟩)), by decide⟩

/-- S7. -/
theorem wit_GetAfterSetAnswersStoredValue : HostSetOp (.setHr 7 0xBEEF) .hr 7 0xBEEF 0xBEEF ∧ HostGetOp (.getHr 7) .hr 7 ∧
    (7 : Word).toNat < capOf State.reset.cfg .hr ∧
    ∃ t, exec (.setHr 7 0xBEEF) State.reset = .next t ∧ ∃ u, exec (.getHr 7) t = .next u :=
  ⟨.inr (.inr (.inr ⟨rfl, rfl, rfl⟩)), .inr (.inr (.inr ⟨rfl, rfl⟩)), by decide, _, rfl, _, rfl⟩

/-- HP12. -/
theorem wit_FullEventQueueLosesOnlyTheEvent : HostSetOp (.setHr 0 4) .hr 0 4 4 ∧
    (0 : Word).toNat < capOf { Config.resetCfg with cbHr := [0] } .hr ∧
    cbEnabled { Config.resetCfg with cbHr := [0] } .hr (0 : Word).toNat = true ∧ (Params.mk none (some 1) none).cbDepth = some 1 ∧
    1 ≤ ([⟨.di, .read, 0, 0⟩] : List CbEvent).length :=
  ⟨.inr (.inr (.inr ⟨rfl, rfl, rfl⟩)), by decide, by decide, rfl, by decide⟩

/-! ## The framer -/

/-- The clauses of the interval: an override; a rate of 0 and one of 19201; rates of 1 and of 19200. -/
theorem wit_SilentIntervalRule : ({ Config.resetCfg with silentOvr := 1 } : Cfg).silentOvr ≠ 0 ∧
    (Config.resetCfg.silentOvr = 0 ∧ Config.resetCfg.baud.toInt ≤ 0) ∧ 19200 < (19201 : BitVec 32).toInt ∧
    0 < (1 : BitVec 32).toInt ∧ (19200 : BitVec 32).toInt ≤ 19200 := by decide

/-- F1. -/
theorem wit_PoppedByteRestartsTimer :
    ({ quiet with rxFifo := [.byte 7], sched := [.engine none] } : State).inReset = false ∧
    ({ quiet with rxFifo := [.byte 7], sched := [.engine none] } : State).sched = .engine none :: [] ∧
    ({ quiet with rxFifo := [.byte 7], sched := [.engine none] } : State).frState = .receive ∧
    ({ quiet with rxFifo := [.byte 7], sched := [.engine none] } : State).rxFifo = .byte 7 :: [] := ⟨rfl, rfl, rfl, rfl⟩

/-- The silence of `quiet` is 3 ticks: 2 ticks do not reach it; 3 do, with an empty buffer and with one byte. -/
theorem wit_SilenceEndsFrameAtTSilent :
    (quiet.inReset = false ∧ quiet.frState = .receive ∧ quiet.rxFifo = [] ∧ quiet.ticksHeld = 0 ∧ 0 < 2 ∧
      ({ quiet with sched := [.usTick, .usTick] } : State).sched = List.replicate 2 .usTick ++ [] ∧
      quiet.idleUs.toNat + 2 < (tSilent quiet.cfg).toNat) ∧
    (quiet.idleUs.toNat + 3 = (tSilent quiet.cfg).toNat ∧ quiet.acc.len = 0 ∧
      0 < ({ quiet with acc := ⟨[7], 1, false⟩ } : State).acc.len) := by decide +kernel

/-- Two queued bytes that fill the buffer exactly, and a tick that arrives while they are queued. -/
theorem wit_QueuedBytesComeBeforeHeldTick :
    ∃ s : State, s.inReset = false ∧ s.frState = .receive ∧ ([1, 2] : List Byte) ≠ [] ∧
      s.rxFifo = ([1, 2] : List Byte).map .byte ∧ s.ticksHeld = 0 ∧ s.acc.len + ([1, 2] : List Byte).length ≤ 265 ∧
      1 < (tSilent s.cfg).toNat ∧
      s.sched = .usTick :: List.replicate ([1, 2] : List Byte).length (.engine none) ++ .engine none :: [] :=
  ⟨{ quiet with
      rxFifo := [.byte 1, .byte 2]
      acc := ⟨zeros 263, 263, false⟩
      sched := [.usTick, .engine none, .engine none, .engine none] },
    rfl, rfl, by decide, rfl, rfl, by decide, by decide, rfl⟩

/-- A block in `RECEIVE` one tick before the end of a frame of 264 bytes. -/
def racing (sched : List Move) : State := { quiet with acc := ⟨zeros 264, 264, false⟩, idleUs := 2, sched := sched }

theorem wit_RaceOfByteAndTickAdmitsBothOrders :
    ((racing [.usTick, .rxByte 1]).inReset = false ∧ (racing [.usTick, .rxByte 1]).frState = .receive ∧
      (racing [.usTick, .rxByte 1]).rxFifo = [] ∧ (racing [.usTick, .rxByte 1]).rxEnded = false ∧
      (racing [.usTick, .rxByte 1]).ticksHeld = 0 ∧ fits (racing [.usTick, .rxByte 1]).params.rxFifoDepth 0 = true ∧
      (racing [.usTick, .rxByte 1]).idleUs + 1 = tSilent (racing [.usTick, .rxByte 1]).cfg ∧
      0 < (racing [.usTick, .rxByte 1]).acc.len ∧ (racing [.usTick, .rxByte 1]).acc.len < 265 ∧
      (racing [.usTick, .rxByte 1]).sched = .usTick :: .rxByte 1 :: []) ∧
    ((racing [.rxByte 1, .engine none, .usTick]).sched = .rxByte 1 :: .engine none :: .usTick :: [] ∧
      tSilent (racing [.rxByte 1, .engine none, .usTick]).cfg ≠ 1) := by decide +kernel

/-- F6 and F7: with bytes in the buffer, and with none. -/
theorem wit_PoppedErrorEndsTheRun : ∃ s : State, s.inReset = false ∧ s.sched = .engine none :: [] ∧ s.frState = .receive ∧
    s.rxFifo = .err 5 :: [] ∧ 0 < s.acc.len ∧ ({ s with acc := emptyAcc } : State).acc.len = 0 :=
  ⟨{ quiet with rxFifo := [.err 5], sched := [.engine none], acc := ⟨[1], 1, false⟩ }, rfl, rfl, rfl, rfl, by decide, rfl⟩

/-- A block with a receive queue of two items that holds one, in state `f`, with a delivery to come. -/
def receiving (f : FrState) (m : Move) : State :=
  { quiet with params := ⟨some 2, none, none⟩, rxFifo := [.byte 1], frState := f, sched := [m] }

/-- A byte in every state with the last place of the queue free, an error, a halted block, an ended receiver. -/
theorem wit_ReceiverAppendsAtTheEnd :
    (∀ f ∈ [FrState.receive, .process, .transmit, .settle], (receiving f (.rxByte 2)).inReset = false ∧
      (receiving f (.rxByte 2)).rxEnded = false ∧
      (∀ d, (receiving f (.rxByte 2)).params.rxFifoDepth = some d → (receiving f (.rxByte 2)).rxFifo.length < d) ∧
      (receiving f (.rxByte 2)).frState ≠ .halted ∧ (receiving f (.rxByte 2)).sched = .rxByte 2 :: []) ∧
    (receiving .settle (.rxError 9)).sched = .rxError 9 :: [] ∧
    ((receiving .halted (.rxByte 2)).frState = .halted ∧ (receiving .halted (.rxByte 2)).rxEnded = false) ∧
    ({ receiving .process (.rxByte 2) with rxEnded := true } : State).rxEnded = true := by
  refine ⟨fun f hf => ⟨rfl, rfl, fun d hd => ?_, ?_, rfl⟩, rfl, ⟨rfl, rfl⟩, rfl⟩
  · cases hd; exact Nat.lt_succ_self 1
  · revert f; decide

/-- F15 and F16: in `RECEIVE` and in `SETTLE`. -/
theorem wit_ReceiveOverrunEndsTheRun : ∃ s : State, s.inReset = false ∧ s.rxEnded = false ∧
    ((∃ b, Move.rxByte 2 = .rxByte b) ∨ ∃ e, Move.rxByte 2 = .rxError e) ∧
    ((∃ b, Move.rxError 9 = .rxByte b) ∨ ∃ e, Move.rxError 9 = .rxError e) ∧ s.sched = .rxByte 2 :: [] ∧
    ({ s with sched := [.rxError 9] } : State).sched = .rxError 9 :: [] ∧
    s.params.rxFifoDepth = some 1 ∧ 1 ≤ s.rxFifo.length ∧ s.frState = .receive ∧ s.frState ≠ .halted ∧
    ({ s with frState := .settle } : State).frState ≠ .receive :=
  ⟨{ quiet with params := ⟨some 1, none, none⟩, rxFifo := [.byte 1], sched := [.rxByte 2] }, rfl, rfl, .inl ⟨2, rfl⟩,
    .inr ⟨9, rfl⟩, rfl, rfl, rfl, by decide, rfl, by decide, by decide⟩

/-- A whole reply of two bytes, the first of two bytes alone, and a tick. -/
theorem wit_TransmitSendsTheRestInOrder : ∃ s : State, s.inReset = false ∧ s.frState = .transmit ∧ s.txPtr < s.txBuf.length ∧
    s.sched = List.replicate (s.txBuf.length - s.txPtr) .txAccept ++ [] ∧
    (s.txPtr + 1 < s.txBuf.length ∧ s.txBuf[s.txPtr]? = some 1 ∧ s.sched = .txAccept :: [.txAccept]) ∧
    ({ s with sched := [.usTick] } : State).sched = .usTick :: [] :=
  ⟨{ quiet with frState := .transmit, txBuf := [1, 2], sched := [.txAccept, .txAccept] }, rfl, rfl, by decide, rfl,
    ⟨by decide, rfl, rfl⟩, rfl⟩

theorem wit_TransmitErrorHalts : ∃ s : State, s.inReset = false ∧ s.frState = .transmit ∧ s.sched = .txError 3 :: [] :=
  ⟨{ quiet with frState := .transmit, txBuf := [1, 2], sched := [.txError 3] }, rfl, rfl, rfl⟩

/-- 2 ticks, and the 3 of the whole wait. -/
theorem wit_SettleWaitsTSilentTicks : ∃ s : State, s.inReset = false ∧ s.frState = .settle ∧ s.settleUs = 0 ∧
    s.sched = List.replicate 2 .usTick ++ [.usTick] ∧ s.sched = List.replicate 3 .usTick ++ [] ∧
    2 < (tSilent s.cfg).toNat ∧ 3 = (tSilent s.cfg).toNat ∧ s.final = false ∧ ({ s with final := true } : State).final = true :=
  ⟨{ quiet with frState := .settle, sched := [.usTick, .usTick, .usTick] }, rfl, rfl, rfl, rfl, rfl, by decide, by decide, rfl, rfl⟩

/-- A halted block with a host request to serve. -/
def stopped : State := { quiet with frState := .halted, exitCause := .readError 1, sched := [.hostReq 0 7 0 1] }

theorem wit_HaltedIsLeftOnlyByReset : stopped.frState = .halted ∧ stopped.inReset = false ∧
    stopped.sched.head? ≠ some .resetAssert ∧ ∃ t, step stopped = .next t := ⟨rfl, rfl, by decide, _, rfl⟩

theorem wit_TicksCountOnlyInReceiveAndSettle : ∀ f ∈ [FrState.process, .transmit, .halted],
    (receiving f .usTick).inReset = false ∧ (receiving f .usTick).sched = .usTick :: [] ∧
    ((receiving f .usTick).frState = .process ∨ (receiving f .usTick).frState = .transmit ∨
      (receiving f .usTick).frState = .halted) := by decide

theorem wit_FirstFatalCauseIsKept : stopped.exitCause ≠ .none ∧ stopped.inReset = false ∧
    stopped.sched.head? ≠ some .resetAssert ∧ ∃ t, step stopped = .next t := ⟨by decide, rfl, by decide, _, rfl⟩

theorem wit_ConsumerTakesOneQueuedEvent : ∃ s : State, s.inReset = false ∧ s.sched = .cbTake ⟨.hr, .write, 0, 1⟩ :: [] ∧
    ⟨.hr, .write, 0, 1⟩ ∈ s.cbQueue :=
  ⟨{ quiet with cbQueue := [⟨.hr, .write, 0, 1⟩, ⟨.hr, .write, 0, 1⟩], sched := [.cbTake ⟨.hr, .write, 0, 1⟩] }, rfl, rfl,
    by decide⟩

/-! ## Reset and the step -/

/-- A legal configuration write under reset, with a capacity of 65536, changes the configuration. -/
theorem wit_ConfigurationIsStatic : ∃ t, step { held with sched := [.cfgWrite { Config.resetCfg with slaveId := 7 }] } = .next t ∧
    t.cfg ≠ held.cfg := ⟨_, rfl, by decide⟩

theorem wit_ReleaseLeavesResetValues : held.inReset = true ∧
    ({ held with sched := [.resetRelease] } : State).sched = .resetRelease :: [] := ⟨rfl, rfl⟩

theorem wit_AssertedResetStopsTheBlock : ({ held with sched := [.rxByte 1] } : State).inReset = true ∧
    ({ held with sched := [.rxByte 1] } : State).sched = .rxByte 1 :: [] ∧ (Move.rxByte 1) ≠ .resetRelease ∧
    ∀ c, (Move.rxByte 1) ≠ .cfgWrite c := ⟨rfl, rfl, by decide, fun _ h => nomatch h⟩

theorem wit_ResetDiscardsWorkInFlight : ({ stopped with sched := [.resetAssert] } : State).inReset = false ∧
    ({ stopped with sched := [.resetAssert] } : State).sched = .resetAssert :: [] := ⟨rfl, rfl⟩

/-- RD1: at the decode step with an unlimited turn and with one of a single step, and inside the accesses. -/
theorem wit_StepRunsTheDecodedFrame :
    (taken [0x01, 0x01, 0x00, 0x00, 0x00, 0x08, 0x3D, 0xCC]).inReset = false ∧
    (taken [0x01, 0x01, 0x00, 0x00, 0x00, 0x08, 0x3D, 0xCC]).frState = .process ∧
    (taken [0x01, 0x01, 0x00, 0x00, 0x00, 0x08, 0x3D, 0xCC]).sched = .engine none :: [] ∧
    (taken [0x01, 0x01, 0x00, 0x00, 0x00, 0x08, 0x3D, 0xCC]).frame =
      frameOf [0x01, 0x01, 0x00, 0x00, 0x00, 0x08, 0x3D, 0xCC] ∧
    decode (.frame [0x01, 0x01, 0x00, 0x00, 0x00, 0x08, 0x3D, 0xCC]) = .instr (.rdCoils 1 0 8) ∧
    (taken [0x01, 0x01, 0x00, 0x00, 0x00, 0x08, 0x3D, 0xCC]).pos = .decode ∧
    ({ taken [0x01, 0x01, 0x00, 0x00, 0x00, 0x08, 0x3D, 0xCC] with sched := [.engine (some 1)] } : State).sched =
      .engine (some (0 + 1)) :: [] ∧
    (State.setPos (.access 8 [0]) (taken [0x01, 0x01, 0x00, 0x00, 0x00, 0x08, 0x3D, 0xCC])).pos ≠ .decode := by
  decide +kernel

/-- Agent 0 of any number, the last of three agents, and the first that is not one of them. -/
theorem wit_StepServesTheHostRequest : stopped.inReset = false ∧ stopped.sched = .hostReq 0 7 0 1 :: [] ∧
    decode (.host 7 0 1) = .instr (.setHr 0 1) ∧ (∀ n, stopped.params.nHost = some n → 0 < n) ∧
    (∀ n, (Params.mk none none (some 3)).nHost = some n → 2 < n) ∧
    (∃ n, (Params.mk none none (some 3)).nHost = some n ∧ n ≤ 3) ∧
    (∃ n, (Params.mk none none (some 0)).nHost = some n ∧ n ≤ 0) := by
  refine ⟨rfl, rfl, rfl, fun n h => ?_, fun n h => ?_, ⟨3, rfl, Nat.le_refl 3⟩, ⟨0, rfl, Nat.le_refl 0⟩⟩
  · cases h
  · cases h; exact Nat.lt_succ_self 2

/-- The read of eight coils (RD1) in `PROCESS`, before its access number 3. -/
def accessing : State :=
  { decoded [0x01, 0x01, 0x00, 0x00, 0x00, 0x08, 0x3D, 0xCC] (.access 3 [5]) with
    banks := ⟨[], [(0, 1), (2, 1)], [], []⟩
    resp := ⟨1, 1, 0, 0, [], false⟩
    sched := [.engine (some 1)] }

/-- Its reply in `TRANSMIT`, with the second byte on offer. -/
def offering : State :=
  { accessing with
    frState := .transmit
    pos := .encode
    resp := ⟨1, 1, 0, 0, [5], false⟩
    dispOut := .dispatched
    txBuf := [0x01, 0x01, 0x01, 0x05, 0x91, 0x8B]
    txPtr := 1
    sched := [.txAccept] }

/-- The invariants hold in the reset state with moves to come, at an access, and with a reply on offer. -/
theorem reset_Inv : Inv { State.reset with sched := [.rxByte 1] } := by
  constructor <;> first
    | decide
    | simp [State.reset, withinDepth, accWf, frameWf, Config.resetParams, Config.accDepth]

theorem reset_host_Inv : Inv { State.reset with sched := [.hostReq 0 7 0 1] } := by
  constructor <;> first
    | decide
    | simp [State.reset, withinDepth, accWf, frameWf, Config.resetParams, Config.accDepth]

theorem reset_ReplyInv : ReplyInv { State.reset with sched := [.hostReq 0 7 0 1] } := by
  constructor <;> simp [State.reset]

theorem accessing_step : ∃ t, step accessing = .next t ∧ t.frState = .process ∧ t.pos = .access 4 [5] := by
  have h : (nextOf (step accessing)).any (fun t => t.frState == .process && t.pos == .access 4 [5]) = true := by
    decide +kernel
  cases e : step accessing <;> simp_all [nextOf]

theorem accessing_Inv : Inv accessing := by
  constructor <;> first
    | decide +kernel
    | (unfold withinDepth; intro d hd; cases hd)
    | (unfold accWf; decide)
    | (unfold frameWf; decide)

theorem accessing_ReplyInv : ReplyInv accessing := by
  constructor
  · intro _ h
    exact absurd h (by unfold RejectedBytes; decide +kernel)
  · exact fun _ _ _ _ => .inl (by decide +kernel)
  · exact fun _ h => nomatch h
  · exact fun _ h => nomatch h
  · exact fun h => nomatch h

theorem offering_Inv : Inv offering := by
  constructor <;> first
    | decide +kernel
    | (unfold withinDepth; intro d hd; cases hd)
    | (unfold accWf; decide)
    | (unfold frameWf; decide)

theorem offering_ReplyInv : ReplyInv offering := by
  constructor
  · exact fun h => nomatch h
  · exact fun _ _ h => nomatch h
  · exact fun h => nomatch h
  · exact fun h => nomatch h
  · exact fun _ => by decide +kernel

/-- In `RECEIVE`, in `PROCESS` at an access, and in `TRANSMIT`. -/
theorem wit_StepKeepsInvariant :
    (Inv { State.reset with sched := [.rxByte 1] } ∧ ∃ t, step { State.reset with sched := [.rxByte 1] } = .next t ∧ t.rxFifo = [.byte 1]) ∧
    (Inv accessing ∧ ∃ t, step accessing = .next t ∧ t.frState = .process ∧ t.pos = .access 4 [5]) ∧
    (Inv offering ∧ ∃ t, step offering = .next t ∧ t.wire = [0x01]) :=
  ⟨⟨reset_Inv, _, rfl, rfl⟩, ⟨accessing_Inv, accessing_step⟩, ⟨offering_Inv, _, rfl, rfl⟩⟩

theorem wit_StepKeepsReplyDiscipline :
    (Inv { State.reset with sched := [.hostReq 0 7 0 1] } ∧ ReplyInv { State.reset with sched := [.hostReq 0 7 0 1] } ∧
      ∃ t, step { State.reset with sched := [.hostReq 0 7 0 1] } = .next t) ∧
    (Inv accessing ∧ ReplyInv accessing ∧ ∃ t, step accessing = .next t ∧ t.frState = .process ∧ t.pos = .access 4 [5]) ∧
    (Inv offering ∧ ReplyInv offering ∧ ∃ t, step offering = .next t ∧ t.frState = .transmit) :=
  ⟨⟨reset_host_Inv, reset_ReplyInv, _, rfl⟩, ⟨accessing_Inv, accessing_ReplyInv, accessing_step⟩,
    ⟨offering_Inv, offering_ReplyInv, _, rfl, rfl⟩⟩

end Sys2Proof.Tests
end

section
/-! SUPPORT. The residue of a sequence that carries its own CRC (R133, R134), and with it every ADU that `GetADU` gives. -/

namespace Sys2Proof

/-- A shift of the CRC engine with a clear low bit feeds nothing back (R130). -/
theorem crcBit_of_even (c : Word) (h : c.getLsbD 0 = false) : crcBit c = c >>> 1 := by
  unfold crcBit
  rw [h]
  rfl

/-- Shifts that move out zeros only. -/
theorem repeat_crcBit_of_low_zero (n : Nat) (c : Word) (h : ∀ i < n, c.getLsbD i = false) :
    Nat.repeat crcBit n c = c >>> n := by
  induction n with
  | zero => simp [Nat.repeat]
  | succ n ih =>
    have hlow : (c >>> n).getLsbD 0 = false := by simpa using h n (Nat.lt_succ_self n)
    rw [Nat.repeat, ih (fun i hi => h i (by omega)), crcBit_of_even _ hlow, BitVec.shiftRight_add]

/-- The register's own low byte cancels in the engine, and the high byte moves down. -/
theorem crcByte_loByte (c : Word) : crcByte c (loByte c) = (hiByte c).setWidth 16 := by
  have hlow : ∀ i < 8, (c ^^^ (loByte c).setWidth 16).getLsbD i = false := by
    intro i hi
    simp [loByte, hi, show i < 16 by omega]
  rw [crcByte, repeat_crcBit_of_low_zero 8 _ hlow]
  apply BitVec.eq_of_getLsbD_eq
  intro i hi
  by_cases h8 : i < 8
  · simp [loByte, hiByte, h8, hi]
  · simp [loByte, hiByte, h8]
    exact BitVec.getLsbD_of_ge c _ (by omega)

/-- A byte that meets itself in the register leaves zero. -/
theorem crcByte_setWidth_self (b : Byte) : crcByte (b.setWidth 16) b = 0 := by
  unfold crcByte
  rw [BitVec.xor_self]
  rfl

/-- Every sequence with its CRC appended, low byte first, has the residue 0 (R134). -/
@[simp] theorem crc16_withCrc (p : List Byte) : crc16 (withCrc p) = 0 := by
  simp [withCrc, leBytes, crc16_append, crcByte_loByte, crcByte_setWidth_self]

namespace Machine

theorem withCrc_of_ite {c : Prop} [Decidable c] {why : FailReason} {p t : List Byte}
    (h : (if c then Adu.fail why else .bytes (withCrc p)) = .bytes t) : ∃ p, t = withCrc p := by
  split at h
  · cases h
  · exact ⟨p, (Adu.bytes.inj h).symm⟩

/-- The bytes that `GetADU` gives are a body with its CRC (R226, R232). -/
theorem getAdu_bytes (r : Response) (t : List Byte) (h : getAdu r = .bytes t) : ∃ p, t = withCrc p := by
  cases hu : r.unanswered with
  | true =>
    rw [getAdu_unanswered r hu] at h
    cases h
  | false =>
    cases hf : formatOf r.func with
    | rd => exact withCrc_of_ite (getAdu_read r hu hf ▸ h)
    | ws => exact withCrc_of_ite (getAdu_write r hu (.inl hf) ▸ h)
    | wm => exact withCrc_of_ite (getAdu_write r hu (.inr hf) ▸ h)
    | unknown =>
      cases h7 : r.func.getLsbD 7 with
      | true => exact withCrc_of_ite (getAdu_exception r hu h7 ▸ h)
      | false => simp only [getAdu, hu, hf, h7, Bool.false_eq_true, if_false, reduceCtorEq] at h

end Machine
end Sys2Proof
end

section
/-! SUPPORT. The facts on values that single clauses of the invariant rest on: the timers, the queue depths, `ACC`, the cause. -/

namespace Sys2Proof.Machine

/-- The silent interval is at least one tick (R241). -/
theorem tSilent_pos (c : Cfg) : 0 < (tSilent c).toNat := by
  unfold tSilent
  split
  · next hovr =>
    have : c.silentOvr.toNat ≠ 0 := fun h => hovr (BitVec.eq_of_toNat_eq (by simpa using h))
    omega
  · split
    · decide
    · next hbaud =>
      have hlt := c.baud.isLt
      have hint := BitVec.toInt_eq_toNat_cond c.baud
      have hrange : 1 ≤ c.baud.toNat ∧ c.baud.toNat ≤ 19200 := by
        split at hint <;> omega
      have hlow : 1 ≤ 35000000 / c.baud.toNat := (Nat.le_div_iff_mul_le hrange.1).mpr (by omega)
      have hhigh : 35000000 / c.baud.toNat ≤ 35000000 := Nat.div_le_self ..
      rw [BitVec.toNat_ofNat, Nat.mod_eq_of_lt (by omega)]
      exact hlow

/-- A timer below its limit that a tick does not bring to the limit stays below it. -/
theorem timer_succ_lt {x limit : BitVec 32} (h : x.toNat < limit.toNat) (hne : x + 1 ≠ limit) :
    (x + 1).toNat < limit.toNat := by
  bv_omega

/-- A queue that has room keeps its bound with one item more. -/
theorem withinDepth_succ {depth : Option Nat} {n : Nat} (h : fits depth n = true) : withinDepth depth (n + 1) :=
  (fits_iff depth n).mp h

theorem withinDepth_of_le {depth : Option Nat} {m n : Nat} (h : withinDepth depth n) (hle : m ≤ n) :
    withinDepth depth m :=
  fun d hd => Nat.le_trans hle (h d hd)

/-- An empty queue respects every depth. -/
theorem withinDepth_zero (depth : Option Nat) : withinDepth depth 0 := fun _ _ => Nat.zero_le _

/-! ## The accumulation buffer -/

theorem accWf_empty : accWf emptyAcc := by simp [accWf, emptyAcc]

/-- An appended byte is counted always, and stored while there is room (R31, R244). -/
theorem accAppend_wf (b : Byte) (a : Acc) (h : accWf a) : accWf (accAppend b a) := by
  obtain ⟨hlen, hovf⟩ := h
  refine ⟨?_, ?_⟩
  · unfold accAppend
    split <;> simp <;> omega
  · simp only [accAppend, Bool.or_eq_true, hovf, decide_eq_true_eq]
    omega

/-- The second of two fatal causes changes nothing (R307). -/
@[simp] theorem firstCause_firstCause (old new : ExitCause) :
    firstCause (firstCause old new) new = firstCause old new := by
  cases old with
  | none => exact firstCause_self new
  | readError e => rfl
  | writeError e => rfl
  | rxOverrun => rfl

end Sys2Proof.Machine
end

section
/-! SUPPORT. What the stages of a frame keep: the canonical banks and event queue, and a position past the decode step. -/

namespace Sys2Proof.Machine

/-- The clauses of the invariant that an access to a bank can touch. -/
def StoreWf (s : State) : Prop :=
  banksWf s.cfg s.banks = true ∧ queueSorted s.cbQueue = true ∧ withinDepth s.params.cbDepth s.cbQueue.length

theorem Inv.storeWf {s : State} (h : Inv s) : StoreWf s := ⟨h.banks, h.queueOrder, h.queueFits⟩

theorem emit_storeWf (e : CbEvent) (s : State) (h : StoreWf s) : StoreWf (emit e s) := by
  obtain ⟨hbanks, hsorted, hfits⟩ := h
  rcases emit_cases e s with ⟨hroom, he⟩ | ⟨_, he⟩ <;> rw [he]
  · exact ⟨hbanks, queueInsert_sorted e _ hsorted, by simpa using withinDepth_succ hroom⟩
  · exact ⟨hbanks, hsorted, hfits⟩

theorem emitIf_storeWf (k : BankId) (kind : CbKind) (a : Nat) (v : Word) (s : State) (h : StoreWf s) :
    StoreWf (emitIf k kind a v s) := by
  unfold emitIf
  split
  · exact emit_storeWf _ s h
  · exact h

theorem memRead_storeWf (k : BankId) (a : Nat) (s : State) (h : StoreWf s) : StoreWf (memRead k a s).2 := by
  rcases memRead_cases k a s with ⟨_, he⟩ | ⟨_, he⟩ <;> rw [he]
  · exact emitIf_storeWf k .read a _ s h
  · exact h

theorem memWrite_storeWf (k : BankId) (a : Nat) (v : Word) (s : State) (h : StoreWf s) :
    StoreWf (memWrite k a v s).2 := by
  rcases memWrite_cases k a v s with ⟨ha, he⟩ | ⟨_, he⟩ <;> rw [he]
  · obtain ⟨hbanks, hqueue⟩ := h
    exact emitIf_storeWf k .write a v _ ⟨bankSet_wf s.cfg s.banks k a v hbanks ha, hqueue⟩
  · exact h

/-- What every internal step of a frame between the decode and the last one keeps. -/
structure StageKeeps (s t : State) : Prop extends HandlingKeeps s t where
  storeWf : StoreWf s → StoreWf t
  decoded : s.pos ≠ .decode → t.pos ≠ .decode

theorem StageKeeps.refl (s : State) : StageKeeps s s := ⟨HandlingKeeps.refl s, id, id⟩

theorem StageKeeps.trans {s t u : State} (h : StageKeeps s t) (k : StageKeeps t u) : StageKeeps s u :=
  ⟨h.toHandlingKeeps.trans k.toHandlingKeeps, k.storeWf ∘ h.storeWf, k.decoded ∘ h.decoded⟩

theorem setPos_stageKeeps (p : Pos) (hp : p ≠ .decode) (s : State) : StageKeeps s (s.setPos p) :=
  ⟨setPos_keeps p s, id, fun _ => hp⟩

theorem scaffold_stageKeeps (id func : Byte) (s : State) : StageKeeps s (scaffold id func s) :=
  ⟨scaffold_keeps id func s, fun h => h, fun h => h⟩

theorem suppress_stageKeeps (out : DispOut) (s : State) : StageKeeps s (suppress out s) :=
  ⟨suppress_keeps out s, id, fun _ => by simp⟩

theorem raise_stageKeeps (code : Byte) (s : State) : StageKeeps s (raise code s) :=
  ⟨raise_keeps code s, id, fun _ => by simp⟩

theorem memRead_stageKeeps (k : BankId) (a : Nat) (s : State) : StageKeeps s (memRead k a s).2 :=
  ⟨memRead_keeps k a s, memRead_storeWf k a s, fun h => by simpa using h⟩

theorem memWrite_stageKeeps (k : BankId) (a : Nat) (v : Word) (s : State) : StageKeeps s (memWrite k a v s).2 :=
  ⟨memWrite_keeps k a v s, memWrite_storeWf k a v s, fun h => by simpa using h⟩

theorem dispatchFinish_stageKeeps (id : Byte) (s : State) : StageKeeps s (dispatchFinish id s) :=
  ⟨dispatchFinish_keeps id s, fun h => by simpa [StoreWf] using h, fun _ => by simp⟩

/-- The dispatcher's first step, for whatever unit it may find (R168). -/
theorem dispatchStart_stageKeeps (id func : Byte) (pf : Bool) (u : HandlerUnit) (s : State) :
    StageKeeps s (dispatchStart id func pf u s) := by
  have hscaf := scaffold_stageKeeps id func s
  rcases dispatchStart_cases id func pf u s with ⟨_, e⟩ | ⟨_, _, e⟩ | ⟨_, _, _, e⟩ | ⟨_, _, _, code, _, e⟩ | ⟨_, _, _, _, e⟩ <;>
    rw [e]
  · exact hscaf.trans (suppress_stageKeeps _ _)
  · exact hscaf.trans (suppress_stageKeeps _ _)
  · exact hscaf.trans (raise_stageKeeps _ _)
  · exact hscaf.trans (raise_stageKeeps _ _)
  · exact hscaf.trans (setPos_stageKeeps _ (by simp) _)

/-! ## The function units -/

/-- A function unit whose accesses and builder call do no more than a stage of a frame may. -/
structure HandlerUnit.Keeps (u : HandlerUnit) : Prop where
  access : ∀ i buf s, StageKeeps s (u.access i buf s)
  done : ∀ buf s, StageKeeps s (u.done buf s)

theorem setRead_stageKeeps (buf : List Byte) (s : State) : StageKeeps s (setRead buf s) :=
  ⟨setRead_keeps buf s, id, id⟩

theorem noUnit_keeps : noUnit.Keeps := ⟨fun _ _ => StageKeeps.refl, fun _ => StageKeeps.refl⟩

theorem readBits_keeps (k : BankId) (addr qty : Word) : (readBits k addr qty).Keeps where
  access _ _ s := (memRead_stageKeeps k _ s).trans (setPos_stageKeeps _ (by simp) _)
  done := setRead_stageKeeps

theorem readWords_keeps (k : BankId) (addr qty : Word) : (readWords k addr qty).Keeps where
  access _ _ s := (memRead_stageKeeps k _ s).trans (setPos_stageKeeps _ (by simp) _)
  done := setRead_stageKeeps

theorem writeSingle_keeps (k : BankId) (addr arg value : Word) : (writeSingle k addr arg value).Keeps where
  access i buf s := by
    show StageKeeps s (if (memWrite k addr.toNat value s).1 then _ else _)
    split
    · exact (memWrite_stageKeeps k _ value s).trans (setPos_stageKeeps _ (by simp) _)
    · exact raise_stageKeeps _ s
  done _ s := ⟨setSingleWrite_keeps _ _ s, id, id⟩

theorem writeMultiple_keeps (k : BankId) (addr qty : Word) (check : Cfg → Option Byte) (n : Nat) (value : Nat → Word) :
    (writeMultiple k addr qty check n value).Keeps where
  access i _ s := (memWrite_stageKeeps k _ (value i) s).trans (setPos_stageKeeps _ (by simp) _)
  done _ s := ⟨setMultiWrite_keeps _ _ s, id, id⟩

/-- Every internal step but the encoder's is such a stage (R252). -/
theorem internalStep_stageKeeps (id func : Byte) (pf : Bool) (u : HandlerUnit) (hu : u.Keeps) (s : State)
    (hp : s.pos ≠ .encode) : StageKeeps s (internalStep id func pf u s) := by
  unfold internalStep
  cases hpos : s.pos with
  | decode => exact dispatchStart_stageKeeps id func pf u s
  | dispatch => exact dispatchStart_stageKeeps id func pf u s
  | access i buf =>
    dsimp only
    split
    · exact hu.access i buf s
    · exact (hu.done buf s).trans (setPos_stageKeeps _ (by simp) _)
  | finish => exact dispatchFinish_stageKeeps id s
  | encode => exact absurd hpos hp

/-- All that the meaning of an instruction can be: the handling of a frame by a function unit, a Get, or a Set. -/
theorem exec_cases (i : Instr) :
    (∃ id func u, HandlerUnit.Keeps u ∧ ∀ s, exec i s = .next (process id func false u s)) ∨
    (∃ k addr, ∀ s, exec i s = .next (hostGet k addr s)) ∨
    (∃ k addr value, ∀ s, exec i s = .next (hostSet k addr value s)) := by
  cases i with
  | rdCoils => exact .inl ⟨_, _, _, readBits_keeps _ _ _, fun _ => rfl⟩
  | rdDiscrete => exact .inl ⟨_, _, _, readBits_keeps _ _ _, fun _ => rfl⟩
  | rdHolding => exact .inl ⟨_, _, _, readWords_keeps _ _ _, fun _ => rfl⟩
  | rdInput => exact .inl ⟨_, _, _, readWords_keeps _ _ _, fun _ => rfl⟩
  | wrCoil => exact .inl ⟨_, _, _, writeSingle_keeps _ _ _ _, fun _ => rfl⟩
  | wrReg => exact .inl ⟨_, _, _, writeSingle_keeps _ _ _ _, fun _ => rfl⟩
  | wrCoils => exact .inl ⟨_, _, _, writeMultiple_keeps _ _ _ _ _ _, fun _ => rfl⟩
  | wrRegs => exact .inl ⟨_, _, _, writeMultiple_keeps _ _ _ _ _ _, fun _ => rfl⟩
  | illegalFn => exact .inl ⟨_, _, _, noUnit_keeps, fun _ => rfl⟩
  | getDi => exact .inr (.inl ⟨_, _, fun _ => rfl⟩)
  | getCoil => exact .inr (.inl ⟨_, _, fun _ => rfl⟩)
  | getIr => exact .inr (.inl ⟨_, _, fun _ => rfl⟩)
  | getHr => exact .inr (.inl ⟨_, _, fun _ => rfl⟩)
  | setDi => exact .inr (.inr ⟨_, _, _, fun _ => rfl⟩)
  | setCoil => exact .inr (.inr ⟨_, _, _, fun _ => rfl⟩)
  | setIr => exact .inr (.inr ⟨_, _, _, fun _ => rfl⟩)
  | setHr => exact .inr (.inr ⟨_, _, _, fun _ => rfl⟩)

end Sys2Proof.Machine
end

section
/-! SUPPORT. Every move keeps the invariant, while the block runs and while reset is asserted; and the obligation on `step`. -/

namespace Sys2Proof.Machine

/-- The invariant of a block that is not in reset: there the clause on the reset values says nothing. -/
structure Live (s : State) : Prop extends Inv s where
  running : s.inReset = false

theorem resetValues_of_running {s : State} (h : s.inReset = false) : s.inReset = true → s = blockReset true s :=
  fun hr => absurd (h.symm.trans hr) Bool.false_ne_true

variable {s t : State}

/-! ## Updates of single registers -/

theorem setSched_live (rest : List Move) (h : Live s) : Live { s with sched := rest } :=
  { h with resetValues := resetValues_of_running h.running }

theorem setQuantum_live (q : Option Nat) (h : Live s) : Live (s.setQuantum q) :=
  { h with resetValues := resetValues_of_running h.running }

theorem setHostResp_live (r : HostResp) (h : Live s) : Live (s.setHostResp r) :=
  { h with resetValues := resetValues_of_running h.running }

theorem setRxEnded_live (h : Live s) : Live { s with rxEnded := true } :=
  { h with resetValues := resetValues_of_running h.running }

theorem setTicksHeld_live (n : Nat) (hs : s.frState = .receive) (h : Live s) : Live { s with ticksHeld := n } :=
  { h with
    held := fun hne => absurd hs hne
    resetValues := resetValues_of_running h.running }

theorem setIdleUs_live (x : BitVec 32) (hx : s.frState = .receive → x.toNat < (tSilent s.cfg).toNat) (h : Live s) :
    Live { s with idleUs := x } :=
  { h with
    idle := hx
    resetValues := resetValues_of_running h.running }

theorem setSettleUs_live (x : BitVec 32) (hx : s.frState = .settle → x.toNat < (tSilent s.cfg).toNat) (h : Live s) :
    Live { s with settleUs := x } :=
  { h with
    settle := hx
    resetValues := resetValues_of_running h.running }

theorem setRxFifo_live (q : List RxItem) (hq : withinDepth s.params.rxFifoDepth q.length)
    (hs : s.frState = .halted → q = []) (h : Live s) : Live { s with rxFifo := q } :=
  { h with
    fifoFits := hq
    halted := fun hh => ⟨(h.halted hh).1, hs hh⟩
    resetValues := resetValues_of_running h.running }

/-- The sticky bit of a lost byte stands only beside a cause (R313). -/
theorem setRxOverrun_live (hc : s.exitCause ≠ .none) (h : Live s) :
    Live { s with fault := { s.fault with rxOverrun := true } } :=
  { h with
    overrun := fun _ => hc
    resetValues := resetValues_of_running h.running }

/-- Outside `RECEIVE` a fatal cause makes the frame at hand the last one (R249, R313). -/
theorem markFinal_live (cause : ExitCause) (hs : s.frState ≠ .receive) (hc : cause ≠ .none) (h : Live s) :
    Live { s with exitCause := firstCause s.exitCause cause, final := true } :=
  have hne := firstCause_ne_none s.exitCause cause hc
  { h with
    receiving := fun hr => absurd hr hs
    finalCause := fun _ => hne
    causeEnds := fun _ => .inl rfl
    halted := fun hh => ⟨hne, (h.halted hh).2⟩
    overrun := fun _ => hne
    resetValues := resetValues_of_running h.running }

/-! ## Halting, and the ways in and out of a frame -/

theorem halt_live (cause : ExitCause) (hc : firstCause s.exitCause cause ≠ .none) (h : Live s) : Live (halt cause s) :=
  { h with
    fifoFits := withinDepth_zero _
    frameNonempty := by simp
    decoded := by simp
    idle := by simp
    settle := by simp
    receiving := by simp
    finalCause := fun _ => hc
    causeEnds := fun _ => .inr rfl
    halted := fun _ => ⟨hc, rfl⟩
    overrun := fun _ => hc
    offering := by simp
    aduCrc := by simp
    held := fun _ => rfl
    resetValues := resetValues_of_running h.running }

/-- `RECEIVE` is entered with no cause of an end, from every state but `HALTED` (R256). -/
theorem enterReceive_live (hs : s.frState ≠ .halted) (hf : s.final = false) (h : Live s) : Live (enterReceive s) :=
  have hc : s.exitCause = .none := by
    by_contra hne
    rcases h.causeEnds hne with ht | hh
    · exact absurd (hf.symm.trans ht) Bool.false_ne_true
    · exact hs hh
  { h with
    acc := accWf_empty
    frameNonempty := by simp
    decoded := by simp
    idle := fun _ => tSilent_pos s.cfg
    settle := by simp
    receiving := fun _ => hf
    causeEnds := fun hne => absurd hc hne
    halted := by simp
    offering := by simp
    aduCrc := by simp
    held := fun _ => rfl
    resetValues := resetValues_of_running h.running }

theorem frameDone_live (hs : s.frState ≠ .halted) (h : Live s) : Live (frameDone s) := by
  unfold frameDone
  cases hf : s.final with
  | true => exact halt_live _ (by simpa using h.finalCause hf) h
  | false => exact enterReceive_live hs hf h

theorem takeFrame_frameWf (h : accWf s.acc) : frameWf (takeFrame s).frame := by
  obtain ⟨hlen, hovf⟩ := h
  exact ⟨by simp [hlen], hovf⟩

/-- A frame is taken from a buffer that is not empty (R247). -/
theorem takeFrame_live (hs : s.frState = .receive) (hl : 0 < s.acc.len) (h : Live s) : Live (takeFrame s) :=
  { h with
    acc := accWf_empty
    frame := takeFrame_frameWf h.acc
    frameNonempty := fun _ => hl
    decoded := by simp
    idle := by simp
    settle := by simp
    receiving := by simp
    causeEnds := fun hne => (h.causeEnds hne).imp_right (fun hh => by simp [hs] at hh)
    halted := by simp
    offering := by simp
    aduCrc := by simp
    held := fun _ => rfl
    resetValues := resetValues_of_running h.running }

/-- A reply with its CRC goes on offer from its first byte (R251, R253). -/
theorem offerAdu_live (p : List Byte) (hs : s.frState = .process) (hp : s.pos ≠ .decode) (h : Live s) :
    Live (offerAdu (withCrc p) s) :=
  { h with
    frameNonempty := fun _ => h.frameNonempty (.inl hs)
    decoded := fun _ => h.decoded (.inl ⟨hs, hp⟩)
    idle := by simp
    settle := by simp
    receiving := by simp
    causeEnds := fun hne => (h.causeEnds hne).imp_right (fun hh => by simp [hs] at hh)
    halted := by simp
    offering := fun _ => by simp
    aduCrc := fun _ => crc16_withCrc p
    held := fun _ => h.held (by simp [hs])
    resetValues := resetValues_of_running h.running }

/-! ## The receiver -/

/-- In `RECEIVE` an overrun is a halt that records the lost byte (R313). -/
theorem overrun_receive (hs : s.frState = .receive) :
    overrun s = { halt .rxOverrun s with fault := { s.fault with rxOverrun := true } } := by
  simp [overrun, hs, halt]

theorem overrun_live (h : Live s) : Live (overrun s) := by
  have hc := firstCause_ne_none s.exitCause .rxOverrun (by simp)
  rcases overrun_cases s with ⟨_, e⟩ | ⟨hs, -⟩ | ⟨_, hs, e⟩
  · rw [e]
    exact h
  · rw [overrun_receive hs]
    exact setRxOverrun_live hc (halt_live .rxOverrun hc h)
  · rw [e]
    exact setRxOverrun_live hc (markFinal_live .rxOverrun hs (by simp) h)

theorem enqueue_live (item : RxItem) (h : Live s) : Live (enqueue item s) := by
  rcases enqueue_cases item s with ⟨_, e⟩ | ⟨hs, hroom, e⟩ | ⟨_, _, e⟩ <;> rw [e]
  · exact h
  · exact setRxFifo_live _ (by simpa using withinDepth_succ hroom) (fun hh => absurd hh hs) h
  · exact overrun_live h

theorem rxByte_live (b : Byte) (h : Live s) : Live (rxByte b s) := by
  unfold rxByte
  split
  · exact h
  · exact enqueue_live _ h

theorem rxError_live (e : ErrVal) (h : Live s) : Live (rxError e s) := by
  unfold rxError
  split
  · exact h
  · exact enqueue_live _ (setRxEnded_live h)

/-! ## The engine in RECEIVE -/

theorem popByte_live (b : Byte) (h : Live s) : Live (popByte b s) :=
  { h with
    acc := accAppend_wf b s.acc h.acc
    idle := fun _ => tSilent_pos s.cfg
    resetValues := resetValues_of_running h.running }

/-- The receiver's error marks the last frame, or the halt, as its cause (R249). -/
theorem popErr_live (e : ErrVal) (hs : s.frState = .receive) (h : Live s) : Live (popErr e s) := by
  have hc := firstCause_ne_none s.exitCause (.readError e) (by simp)
  rcases popErr_cases e s with ⟨hl, he⟩ | ⟨_, he⟩ <;> rw [he]
  · exact markFinal_live (.readError e) (by simp) (by simp) (takeFrame_live hs hl h)
  · simpa [halt] using markFinal_live (.readError e) (by simp) (by simp) (halt_live (.readError e) hc h)

theorem countTick_live (hs : s.frState = .receive) (h : Live s) : Live (countTick s) := by
  rcases countTick_cases s with ⟨hne, e⟩ | ⟨_, _, e⟩ | ⟨_, hl, e⟩ <;> rw [e]
  · exact setIdleUs_live _ (fun _ => timer_succ_lt (h.idle hs) hne) h
  · exact setIdleUs_live _ (fun _ => tSilent_pos s.cfg) h
  · exact setIdleUs_live _ (by simp) (takeFrame_live hs hl h)

theorem receiveStep_live (hs : s.frState = .receive) (h : Live s) : Live (receiveStep s) := by
  have pop (item : RxItem) (rest : List RxItem) (hq : s.rxFifo = item :: rest) : Live { s with rxFifo := rest } :=
    setRxFifo_live rest (withinDepth_of_le h.fifoFits (by simp [hq])) (by simp [hs]) h
  rcases receiveStep_cases s with ⟨b, rest, hq, e⟩ | ⟨err, rest, hq, e⟩ | ⟨_, _, e⟩ | ⟨n, _, _, e⟩ <;> rw [e]
  · exact popByte_live b (pop _ rest hq)
  · exact popErr_live err hs (pop _ rest hq)
  · exact h
  · exact countTick_live hs (setTicksHeld_live n hs h)

/-! ## Ticks, the transmitter and the event consumer -/

/-- The count of the settle wait plays no part in the end of a frame. -/
theorem frameDone_setSettleUs (x : BitVec 32) (s : State) :
    frameDone { s with settleUs := x } = { frameDone s with settleUs := x } := by
  simp only [frameDone]
  split <;> rfl

theorem frameDone_frState_ne_settle (s : State) : (frameDone s).frState ≠ .settle := by
  unfold frameDone
  cases s.final <;> simp

theorem settleTick_live (hs : s.frState = .settle) (h : Live s) : Live (settleTick s) := by
  rcases settleTick_cases s with ⟨hne, e⟩ | ⟨_, e⟩ <;> rw [e]
  · exact setSettleUs_live _ (fun _ => timer_succ_lt (h.settle hs) hne) h
  · rw [frameDone_setSettleUs]
    exact setSettleUs_live _ (fun hh => absurd hh (frameDone_frState_ne_settle s)) (frameDone_live (by simp [hs]) h)

theorem usTick_live (h : Live s) : Live (usTick s) := by
  rcases usTick_cases s with ⟨hs, _, _, e⟩ | ⟨hs, _, e⟩ | ⟨hs, e⟩ | ⟨_, _, e⟩ <;> rw [e]
  · exact countTick_live hs h
  · exact setTicksHeld_live _ hs h
  · exact settleTick_live hs h
  · exact h

/-- The settle wait begins with its timer at 0 (R253). -/
theorem enterSettle_live (hs : s.frState = .transmit) (h : Live s) :
    Live { s with settleUs := 0, frState := .settle } :=
  { h with
    frameNonempty := fun _ => h.frameNonempty (.inr (.inl hs))
    decoded := fun _ => h.decoded (.inr (.inl hs))
    idle := by simp
    settle := fun _ => tSilent_pos s.cfg
    receiving := by simp
    causeEnds := fun hne => (h.causeEnds hne).imp_right (fun hh => by simp [hs] at hh)
    halted := by simp
    offering := by simp
    aduCrc := by simp
    held := fun _ => h.held (by simp [hs])
    resetValues := resetValues_of_running h.running }

theorem advanceTx_live (n : Nat) (b : Byte) (hn : s.frState = .transmit → n < s.txBuf.length) (h : Live s) :
    Live { s with txPtr := n, wire := s.wire ++ [b] } :=
  { h with
    offering := hn
    resetValues := resetValues_of_running h.running }

theorem txAccept_live (h : Live s) : Live (txAccept s) := by
  rcases txAccept_cases s with ⟨_, e⟩ | ⟨b, hb, _, e⟩ | ⟨b, hb, hne, e⟩ <;> rw [e]
  · exact h
  · obtain ⟨hs, -⟩ := txOffer_some s b hb
    exact advanceTx_live _ b (by simp) (enterSettle_live hs h)
  · obtain ⟨hs, -⟩ := txOffer_some s b hb
    have hlt := h.offering hs
    exact advanceTx_live _ b (fun _ => by omega) h

theorem txError_live (e : ErrVal) (h : Live s) : Live (txError e s) := by
  unfold txError
  cases s.frState with
  | transmit => exact halt_live _ (firstCause_ne_none _ _ (by simp)) h
  | receive => exact h
  | process => exact h
  | settle => exact h
  | halted => exact h

theorem cbTake_live (ev : CbEvent) (h : Live s) : Live (cbTake ev s) := by
  unfold cbTake
  split
  · exact
      { h with
        queueOrder := queueErase_sorted ev s.cbQueue h.queueOrder
        queueFits := withinDepth_of_le h.queueFits List.length_erase_le
        resetValues := resetValues_of_running h.running }
  · exact h

/-! ## Frames in PROCESS and host requests -/

/-- A change that `HandlingKeeps` allows, with the store still in form and no way past the decode step. -/
theorem handlingKeeps_live (k : HandlingKeeps s t) (hstore : StoreWf t) (hpos : s.pos = .decode → t.pos = .decode)
    (h : Live s) : Live t := by
  obtain ⟨hbanks, hsorted, hfits⟩ := hstore
  have running : t.inReset = false := k.inReset.trans h.running
  exact
    { params := k.params ▸ h.params
      cfg := k.cfg ▸ h.cfg
      banks := hbanks
      queueOrder := hsorted
      queueFits := hfits
      fifoFits := by rw [k.params, k.rxFifo]; exact h.fifoFits
      acc := k.acc ▸ h.acc
      frame := k.frame ▸ h.frame
      frameNonempty := by rw [k.frState, k.frame]; exact h.frameNonempty
      decoded := by
        rw [k.frState, k.req, k.frame]
        exact fun hd => h.decoded (hd.imp_left (fun ⟨hp, hne⟩ => ⟨hp, mt hpos hne⟩))
      idle := by rw [k.frState, k.idleUs, k.cfg]; exact h.idle
      settle := by rw [k.frState, k.settleUs, k.cfg]; exact h.settle
      receiving := by rw [k.frState, k.final]; exact h.receiving
      finalCause := by rw [k.final, k.exitCause]; exact h.finalCause
      causeEnds := by rw [k.frState, k.final, k.exitCause]; exact h.causeEnds
      halted := by rw [k.frState, k.exitCause, k.rxFifo]; exact h.halted
      overrun := by rw [k.rxOverrun, k.exitCause]; exact h.overrun
      offering := by rw [k.frState, k.txPtr, k.txBuf]; exact h.offering
      aduCrc := by rw [k.frState, k.txBuf]; exact h.aduCrc
      held := by rw [k.frState, k.ticksHeld]; exact h.held
      resetValues := resetValues_of_running running
      running := running }

theorem hostGet_live (k : BankId) (addr : Word) (h : Live s) : Live (hostGet k addr s) :=
  setHostResp_live _ (handlingKeeps_live (memRead_keeps k addr.toNat s) (memRead_storeWf k addr.toNat s h.storeWf)
    (fun hp => by simpa using hp) h)

theorem hostSet_live (k : BankId) (addr value : Word) (h : Live s) : Live (hostSet k addr value s) :=
  setHostResp_live _ (handlingKeeps_live (memWrite_keeps k addr.toNat (hostValue k value) s)
    (memWrite_storeWf k addr.toNat (hostValue k value) s h.storeWf) (fun hp => by simpa using hp) h)

theorem endProcess_live (hs : s.frState = .process) (hp : s.pos ≠ .decode) (h : Live s) : Live (endProcess s) := by
  unfold endProcess
  cases hg : getAdu s.resp with
  | bytes adu =>
    obtain ⟨p, rfl⟩ := getAdu_bytes _ _ hg
    exact offerAdu_live p hs hp h
  | fail why => exact frameDone_live (by simp [hs]) h

/-- The engine is past the decode step of the frame it works on. -/
def LiveDecoded (s : State) : Prop := Live s ∧ (s.frState = .process → s.pos ≠ .decode)

theorem internalStep_liveDecoded (id func : Byte) (pf : Bool) (u : HandlerUnit) (hu : u.Keeps) (s : State)
    (hs : s.frState = .process) (h : LiveDecoded s) : LiveDecoded (internalStep id func pf u s) := by
  obtain ⟨hlive, hdec⟩ := h
  by_cases hp : s.pos = .encode
  · rw [internalStep_encode _ _ _ _ _ hp]
    refine ⟨endProcess_live hs (hdec hs) hlive, fun _ => ?_⟩
    rcases endProcess_cases s with ⟨_, _, e⟩ | ⟨_, _, _, e⟩ | ⟨_, _, _, e⟩ <;> simp [e, hp]
  · have hk := internalStep_stageKeeps id func pf u hu s hp
    exact ⟨handlingKeeps_live hk.toHandlingKeeps (hk.storeWf hlive.storeWf) (fun hd => absurd hd (hdec hs)) hlive,
      fun _ => hk.decoded (hdec hs)⟩

/-- The engine's turn on a frame, where it is decoded or the turn has no internal step left (R252). -/
theorem process_live (id func : Byte) (pf : Bool) (u : HandlerUnit) (hu : u.Keeps)
    (hd : s.pos = .decode → s.quantum = some 0) (h : Live s) : Live (process id func pf u s) := by
  unfold process
  by_cases hp : s.pos = .decode
  · rw [hd hp]
    exact h
  · exact (advance_keeps LiveDecoded _ (internalStep_liveDecoded id func pf u hu) _ s ⟨h, fun _ => hp⟩).1

theorem exec_live (i : Instr) (hd : s.pos = .decode → s.quantum = some 0) (h : Live s) :
    ∃ t, exec i s = .next t ∧ Live t := by
  rcases exec_cases i with ⟨id, func, u, hu, e⟩ | ⟨k, addr, e⟩ | ⟨k, addr, value, e⟩
  · exact ⟨_, e s, process_live id func false u hu hd h⟩
  · exact ⟨_, e s, hostGet_live k addr h⟩
  · exact ⟨_, e s, hostSet_live k addr value h⟩

/-- The decode step writes `REQ` (R250). -/
theorem decodeStage_live (h : Live s) : Live (decodeStage s) := by
  have decoded (q : Option Nat) :
      Live { s with req := decodeRequest s.frame, pos := .dispatch, quantum := q } :=
    { h with
      decoded := fun _ => rfl
      resetValues := resetValues_of_running h.running }
  rcases decodeStage_cases s with ⟨_, e⟩ | ⟨_, _, e⟩ | ⟨_, _, e⟩ | ⟨n, _, _, e⟩ <;> rw [e]
  · exact h
  · exact h
  · exact decoded s.quantum
  · exact decoded (some n)

/-- Only a turn without an internal step leaves a frame before its decode step. -/
theorem decodeStage_quantum (hd : (decodeStage s).pos = .decode) : (decodeStage s).quantum = some 0 := by
  rcases decodeStage_cases s with ⟨hp, e⟩ | ⟨_, hq, e⟩ | ⟨_, _, e⟩ | ⟨n, _, _, e⟩ <;> rw [e] at hd ⊢
  · exact absurd hd hp
  · exact hq
  · cases hd
  · cases hd

theorem runEngine_live (q : Option Nat) (h : Live s) : ∃ t, runEngine q s = .next t ∧ Live t := by
  have hstage := decodeStage_live (setQuantum_live q h)
  have hreject : Live (rejectFrame (decodeStage (s.setQuantum q))) :=
    process_live _ _ true noUnit noUnit_keeps decodeStage_quantum hstage
  unfold runEngine engineTurn
  cases hs : s.frState with
  | receive => exact ⟨_, rfl, receiveStep_live hs h⟩
  | process =>
    cases decodedOf (decodeRequest s.frame) with
    | instr i => exact exec_live i decodeStage_quantum hstage
    | damaged => exact ⟨_, rfl, hreject⟩
    | crcMismatch => exact ⟨_, rfl, hreject⟩
  | transmit => exact ⟨_, rfl, h⟩
  | settle => exact ⟨_, rfl, h⟩
  | halted => exact ⟨_, rfl, h⟩

theorem runHost_live (agent : Nat) (op : BitVec 3) (addr value : Word) (h : Live s) :
    ∃ t, runHost agent op addr value s = .next t ∧ Live t := by
  rcases runHost_cases agent op addr value s with ⟨_, e⟩ | ⟨_, e⟩ <;> rw [e]
  · rcases execHost_cases op addr value with ⟨k, hk⟩ | ⟨k, hk⟩
    · exact ⟨_, hk s, hostGet_live k addr h⟩
    · exact ⟨_, hk s, hostSet_live k addr value h⟩
  · exact ⟨_, rfl, h⟩

/-! ## Reset -/

/-- The reset values meet the invariant, whatever legal configuration and parameters the block has (R341). -/
theorem blockReset_inv (level : Bool) (hp : paramsLegal s.params = true) (hc : cfgLegal s.cfg = true) :
    Inv (blockReset level s) where
  params := hp
  cfg := hc
  banks := rfl
  queueOrder := rfl
  queueFits := withinDepth_zero _
  fifoFits := withinDepth_zero _
  acc := accWf_empty
  frame := by simp [frameWf, State.reset]
  frameNonempty := by simp [State.reset]
  decoded := by simp [State.reset]
  idle := fun _ => tSilent_pos s.cfg
  settle := by simp [State.reset]
  receiving := fun _ => rfl
  finalCause := by simp [State.reset]
  causeEnds := by simp [State.reset]
  halted := by simp [State.reset]
  overrun := by simp [State.reset]
  offering := by simp [State.reset]
  aduCrc := by simp [State.reset]
  held := fun _ => rfl
  resetValues := by
    intro hl
    obtain rfl : level = true := hl
    rfl

/-- A move under reset leaves the reset values, with a configuration that is legal (R27, R28, R340). -/
theorem moveInReset_inv (m : Move) (hs : s = blockReset true s) (hp : paramsLegal s.params = true)
    (hc : cfgLegal s.cfg = true) (e : moveInReset m s = .next t) : Inv t := by
  have hinv : Inv s := hs ▸ blockReset_inv true hp hc
  cases m with
  | cfgWrite c =>
    unfold moveInReset at e
    dsimp only at e
    split at e
    · next hlegal =>
      cases e
      have hvalues : { s with cfg := c } = blockReset true { s with cfg := c } := by
        conv_lhs => rw [hs]
        rfl
      exact hvalues ▸ blockReset_inv true hp hlegal
    · cases e
  | resetRelease => cases e; exact blockReset_inv false hp hc
  | engine => cases e; exact hinv
  | rxByte => cases e; exact hinv
  | rxError => cases e; exact hinv
  | usTick => cases e; exact hinv
  | txAccept => cases e; exact hinv
  | txError => cases e; exact hinv
  | hostReq => cases e; exact hinv
  | cbTake => cases e; exact hinv
  | resetAssert => cases e; exact hinv

/-! ## Steps -/

/-- Every move of a running block leads to a state that meets the invariant. -/
theorem runMove_inv (m : Move) (h : Live s) : ∃ t, runMove m s = .next t ∧ Inv t := by
  cases m with
  | engine q =>
    obtain ⟨t, e, ht⟩ := runEngine_live q h
    exact ⟨t, e, ht.toInv⟩
  | hostReq agent op addr value =>
    obtain ⟨t, e, ht⟩ := runHost_live agent op addr value h
    exact ⟨t, e, ht.toInv⟩
  | rxByte b => exact ⟨_, rfl, (rxByte_live b h).toInv⟩
  | rxError e => exact ⟨_, rfl, (rxError_live e h).toInv⟩
  | usTick => exact ⟨_, rfl, (usTick_live h).toInv⟩
  | txAccept => exact ⟨_, rfl, (txAccept_live h).toInv⟩
  | txError e => exact ⟨_, rfl, (txError_live e h).toInv⟩
  | cbTake ev => exact ⟨_, rfl, (cbTake_live ev h).toInv⟩
  | resetAssert => exact ⟨_, rfl, blockReset_inv true h.params h.cfg⟩
  | cfgWrite c => exact ⟨_, rfl, h.toInv⟩
  | resetRelease => exact ⟨_, rfl, h.toInv⟩

theorem step_inv_of_running (h : Live s) (e : step s = .next t) : Inv t := by
  have hstep : ∃ u, step s = .next u ∧ Inv u := by
    cases hq : s.sched with
    | nil =>
      rw [step_idle s h.running hq]
      obtain ⟨u, hu, hlive⟩ := runEngine_live none h
      exact ⟨u, hu, hlive.toInv⟩
    | cons m rest =>
      rw [step_move s m rest h.running hq]
      exact runMove_inv m (setSched_live rest h)
  obtain ⟨u, hu, hinv⟩ := hstep
  cases hu.symm.trans e
  exact hinv

theorem step_inv_of_inReset (hr : s.inReset = true) (h : Inv s) (e : step s = .next t) : Inv t := by
  cases hq : s.sched with
  | nil =>
    have hstay : step s = .next s := by simp [step, hq, hr]
    cases hstay.symm.trans e
    exact h
  | cons m rest =>
    rw [step_reset s m rest hr hq] at e
    have hvalues : { s with sched := rest } = blockReset true { s with sched := rest } := by
      conv_lhs => rw [h.resetValues hr]
      rfl
    exact moveInReset_inv m hvalues h.params h.cfg e

/-- Settles O53: under reset by the reset values, else move by move. -/
theorem stepKeepsInvariant : Obligations.StepKeepsInvariant := by
  intro s t h e
  cases hr : s.inReset with
  | true => exact step_inv_of_inReset hr h e
  | false => exact step_inv_of_running { h with running := hr } e

end Sys2Proof.Machine
end

section
/-! SUPPORT. All that a step can do to the configuration and the parameters, and the obligations on the configuration. -/

namespace Sys2Proof.Machine

/-! ## Legal configurations -/

theorem cfgLegal_iff (c : Cfg) : cfgLegal c = true ↔ ∀ k, capOf c k ≤ 65536 := by
  simp only [cfgLegal, Bool.and_eq_true, decide_eq_true_eq]
  constructor
  · rintro ⟨⟨⟨hdi, hcoil⟩, hir⟩, hhr⟩ k
    cases k <;> assumption
  · exact fun h => ⟨⟨⟨h .di, h .coil⟩, h .ir⟩, h .hr⟩

theorem cfgLegal_eq_false_iff (c : Cfg) : cfgLegal c = false ↔ ∃ k, 65536 < capOf c k := by
  simp only [← Bool.not_eq_true, cfgLegal_iff, not_forall, not_le]

/-! ## What leaves the configuration alone -/

/-- The configuration registers and the structural parameters are untouched. -/
structure ConfigKeeps (s t : State) : Prop where
  cfg : t.cfg = s.cfg
  params : t.params = s.params

variable {s t u : State}

theorem ConfigKeeps.refl (s : State) : ConfigKeeps s s := ⟨rfl, rfl⟩

theorem ConfigKeeps.trans (h : ConfigKeeps s t) (k : ConfigKeeps t u) : ConfigKeeps s u :=
  ⟨k.cfg.trans h.cfg, k.params.trans h.params⟩

theorem CoreKeeps.toConfigKeeps (h : CoreKeeps s t) : ConfigKeeps s t := ⟨h.cfg, h.params⟩

/-! ## The receiver and the engine in RECEIVE -/

theorem overrun_configKeeps (s : State) : ConfigKeeps s (overrun s) := by
  unfold overrun
  cases s.frState <;> exact ⟨rfl, rfl⟩

theorem enqueue_configKeeps (item : RxItem) (s : State) : ConfigKeeps s (enqueue item s) := by
  rcases enqueue_cases item s with ⟨_, e⟩ | ⟨_, _, e⟩ | ⟨_, _, e⟩ <;> rw [e]
  · exact .refl s
  · exact ⟨rfl, rfl⟩
  · exact overrun_configKeeps s

theorem rxByte_configKeeps (b : Byte) (s : State) : ConfigKeeps s (rxByte b s) := by
  unfold rxByte
  split
  · exact .refl s
  · exact enqueue_configKeeps _ s

theorem rxError_configKeeps (e : ErrVal) (s : State) : ConfigKeeps s (rxError e s) := by
  unfold rxError
  split
  · exact .refl s
  · exact .trans (t := { s with rxEnded := true }) ⟨rfl, rfl⟩ (enqueue_configKeeps _ _)

theorem countTick_configKeeps (s : State) : ConfigKeeps s (countTick s) := by
  rcases countTick_cases s with ⟨_, e⟩ | ⟨_, _, e⟩ | ⟨_, _, e⟩ <;> rw [e] <;> exact ⟨rfl, rfl⟩

theorem popErr_configKeeps (e : ErrVal) (s : State) : ConfigKeeps s (popErr e s) := by
  rcases popErr_cases e s with ⟨_, he⟩ | ⟨_, he⟩ <;> rw [he] <;> exact ⟨rfl, rfl⟩

theorem receiveStep_configKeeps (s : State) : ConfigKeeps s (receiveStep s) := by
  rcases receiveStep_cases s with ⟨b, rest, _, e⟩ | ⟨err, rest, _, e⟩ | ⟨_, _, e⟩ | ⟨n, _, _, e⟩ <;> rw [e]
  · exact ⟨rfl, rfl⟩
  · exact .trans (t := { s with rxFifo := rest }) ⟨rfl, rfl⟩ (popErr_configKeeps err _)
  · exact .refl s
  · exact .trans (t := { s with ticksHeld := n }) ⟨rfl, rfl⟩ (countTick_configKeeps _)

/-! ## Ticks, the transmitter and the event consumer -/

theorem frameDone_configKeeps (s : State) : ConfigKeeps s (frameDone s) := by
  unfold frameDone
  split <;> exact ⟨rfl, rfl⟩

theorem settleTick_configKeeps (s : State) : ConfigKeeps s (settleTick s) := by
  rcases settleTick_cases s with ⟨_, e⟩ | ⟨_, e⟩ <;> rw [e]
  · exact ⟨rfl, rfl⟩
  · exact .trans (t := { s with settleUs := s.settleUs + 1 }) ⟨rfl, rfl⟩ (frameDone_configKeeps _)

theorem usTick_configKeeps (s : State) : ConfigKeeps s (usTick s) := by
  rcases usTick_cases s with ⟨_, _, _, e⟩ | ⟨_, _, e⟩ | ⟨_, e⟩ | ⟨_, _, e⟩ <;> rw [e]
  · exact countTick_configKeeps s
  · exact ⟨rfl, rfl⟩
  · exact settleTick_configKeeps s
  · exact .refl s

theorem txAccept_configKeeps (s : State) : ConfigKeeps s (txAccept s) := by
  rcases txAccept_cases s with ⟨_, e⟩ | ⟨_, _, _, e⟩ | ⟨_, _, _, e⟩ <;> rw [e] <;> exact ⟨rfl, rfl⟩

theorem txError_configKeeps (e : ErrVal) (s : State) : ConfigKeeps s (txError e s) := by
  unfold txError
  cases s.frState <;> exact ⟨rfl, rfl⟩

theorem cbTake_configKeeps (ev : CbEvent) (s : State) : ConfigKeeps s (cbTake ev s) := by
  unfold cbTake
  split <;> exact ⟨rfl, rfl⟩

/-- No input event of a running block writes the configuration, the assertion of reset and a write outside reset included (R27). -/
theorem input_configKeeps (m : Move) (s : State) : ConfigKeeps s (input m s) := by
  cases m with
  | rxByte b => exact rxByte_configKeeps b s
  | rxError e => exact rxError_configKeeps e s
  | usTick => exact usTick_configKeeps s
  | txAccept => exact txAccept_configKeeps s
  | txError e => exact txError_configKeeps e s
  | cbTake ev => exact cbTake_configKeeps ev s
  | resetAssert => exact ⟨rfl, rfl⟩
  | cfgWrite => exact .refl s
  | resetRelease => exact .refl s
  | engine => exact .refl s
  | hostReq => exact .refl s

/-! ## Frames in PROCESS and host requests -/

theorem endProcess_configKeeps (s : State) : ConfigKeeps s (endProcess s) := by
  rcases endProcess_cases s with ⟨_, _, e⟩ | ⟨_, _, _, e⟩ | ⟨_, _, _, e⟩ <;> rw [e] <;> exact ⟨rfl, rfl⟩

theorem internalStep_configKeeps (id func : Byte) (pf : Bool) (u : HandlerUnit) (hu : u.Keeps) (s : State) :
    ConfigKeeps s (internalStep id func pf u s) := by
  by_cases hp : s.pos = .encode
  · rw [internalStep_encode _ _ _ _ _ hp]
    exact endProcess_configKeeps s
  · exact (internalStep_stageKeeps id func pf u hu s hp).toCoreKeeps.toConfigKeeps

theorem process_configKeeps (id func : Byte) (pf : Bool) (u : HandlerUnit) (hu : u.Keeps) (s : State) :
    ConfigKeeps s (process id func pf u s) :=
  advance_keeps (ConfigKeeps s) _ (fun t _ h => h.trans (internalStep_configKeeps id func pf u hu t)) _ s (.refl s)

theorem hostGet_configKeeps (k : BankId) (addr : Word) (s : State) : ConfigKeeps s (hostGet k addr s) := by
  obtain ⟨_, _, _, e⟩ := hostGet_shape k addr s
  rw [e]
  exact ⟨rfl, rfl⟩

theorem hostSet_configKeeps (k : BankId) (addr value : Word) (s : State) : ConfigKeeps s (hostSet k addr value s) := by
  obtain ⟨_, _, _, _, e⟩ := hostSet_shape k addr value s
  rw [e]
  exact ⟨rfl, rfl⟩

/-- Every instruction answers a next state, and none writes the configuration. -/
theorem exec_configKeeps (i : Instr) (s : State) : ∃ t, exec i s = .next t ∧ ConfigKeeps s t := by
  rcases exec_cases i with ⟨id, func, u, hu, e⟩ | ⟨k, addr, e⟩ | ⟨k, addr, value, e⟩
  · exact ⟨_, e s, process_configKeeps id func false u hu s⟩
  · exact ⟨_, e s, hostGet_configKeeps k addr s⟩
  · exact ⟨_, e s, hostSet_configKeeps k addr value s⟩

theorem decodeStage_configKeeps (s : State) : ConfigKeeps s (decodeStage s) := by
  rcases decodeStage_cases s with ⟨_, e⟩ | ⟨_, _, e⟩ | ⟨_, _, e⟩ | ⟨_, _, _, e⟩ <;> rw [e] <;> exact ⟨rfl, rfl⟩

/-- The state that the engine's turn works on has the same configuration, whether or not an instruction follows. -/
theorem engineTurn_configKeeps (q : Option Nat) (s : State) : ConfigKeeps s (engineTurn q s).1 := by
  have hstage : ConfigKeeps s (decodeStage (s.setQuantum q)) :=
    .trans (t := s.setQuantum q) ⟨rfl, rfl⟩ (decodeStage_configKeeps _)
  have hreject : ConfigKeeps s (rejectFrame (decodeStage (s.setQuantum q))) :=
    hstage.trans (process_configKeeps _ _ true noUnit noUnit_keeps _)
  unfold engineTurn
  cases s.frState with
  | process =>
    cases decodedOf (decodeRequest s.frame) with
    | instr => exact hstage
    | damaged => exact hreject
    | crcMismatch => exact hreject
  | receive => exact receiveStep_configKeeps s
  | transmit => exact .refl s
  | settle => exact .refl s
  | halted => exact .refl s

theorem runEngine_configKeeps (q : Option Nat) (s : State) : ∃ t, runEngine q s = .next t ∧ ConfigKeeps s t := by
  have hturn := engineTurn_configKeeps q s
  unfold runEngine
  generalize engineTurn q s = turn at hturn ⊢
  obtain ⟨s', instr⟩ := turn
  cases instr with
  | none => exact ⟨s', rfl, hturn⟩
  | some i =>
    obtain ⟨t, e, ht⟩ := exec_configKeeps i s'
    exact ⟨t, e, hturn.trans ht⟩

theorem runHost_configKeeps (agent : Nat) (op : BitVec 3) (addr value : Word) (s : State) :
    ∃ t, runHost agent op addr value s = .next t ∧ ConfigKeeps s t := by
  rcases runHost_cases agent op addr value s with ⟨_, e⟩ | ⟨_, e⟩ <;> rw [e]
  · exact exec_configKeeps _ s
  · exact ⟨s, rfl, .refl s⟩

/-! ## Moves and steps -/

/-- Every move of a running block answers a next state, and none writes the configuration (R27). -/
theorem runMove_configKeeps (m : Move) (s : State) : ∃ t, runMove m s = .next t ∧ ConfigKeeps s t := by
  cases m with
  | engine q => exact runEngine_configKeeps q s
  | hostReq agent op addr value => exact runHost_configKeeps agent op addr value s
  | rxByte => exact ⟨_, rfl, input_configKeeps _ s⟩
  | rxError => exact ⟨_, rfl, input_configKeeps _ s⟩
  | usTick => exact ⟨_, rfl, input_configKeeps _ s⟩
  | txAccept => exact ⟨_, rfl, input_configKeeps _ s⟩
  | txError => exact ⟨_, rfl, input_configKeeps _ s⟩
  | cbTake => exact ⟨_, rfl, input_configKeeps _ s⟩
  | resetAssert => exact ⟨_, rfl, input_configKeeps _ s⟩
  | cfgWrite => exact ⟨_, rfl, input_configKeeps _ s⟩
  | resetRelease => exact ⟨_, rfl, input_configKeeps _ s⟩

/-- Under reset every move but the platform's write answers a next state with the same configuration (R340). -/
theorem moveInReset_configKeeps (m : Move) (s : State) (hm : ∀ c, m ≠ .cfgWrite c) :
    ∃ t, moveInReset m s = .next t ∧ ConfigKeeps s t := by
  cases m with
  | cfgWrite c => exact absurd rfl (hm c)
  | resetRelease => exact ⟨_, rfl, rfl, rfl⟩
  | engine => exact ⟨_, rfl, .refl s⟩
  | rxByte => exact ⟨_, rfl, .refl s⟩
  | rxError => exact ⟨_, rfl, .refl s⟩
  | usTick => exact ⟨_, rfl, .refl s⟩
  | txAccept => exact ⟨_, rfl, .refl s⟩
  | txError => exact ⟨_, rfl, .refl s⟩
  | hostReq => exact ⟨_, rfl, .refl s⟩
  | cbTake => exact ⟨_, rfl, .refl s⟩
  | resetAssert => exact ⟨_, rfl, .refl s⟩

/-- The platform's write of a configuration `c` is the next thing that happens, and reset is asserted. -/
def WritesConfig (c : Cfg) (s : State) : Prop := s.inReset = true ∧ s.sched.head? = some (.cfgWrite c)

/-- The platform's write under reset: taken when the configuration is legal, refused when it is not (R28). -/
theorem step_of_writesConfig (c : Cfg) (s : State) (h : WritesConfig c s) :
    step s = if cfgLegal c then .next { s with sched := s.sched.tail, cfg := c } else .refused .illegalConfiguration := by
  obtain ⟨hr, hhead⟩ := h
  obtain ⟨rest, hq⟩ := List.head?_eq_some_iff.mp hhead
  rw [step_reset s _ rest hr hq, hq]
  rfl

/-- Every other step answers a next state and leaves the configuration as it is (R27). -/
theorem step_configKeeps (s : State) (h : ∀ c, ¬ WritesConfig c s) : ∃ t, step s = .next t ∧ ConfigKeeps s t := by
  cases hq : s.sched with
  | nil =>
    cases hr : s.inReset with
    | false =>
      rw [step_idle s hr hq]
      exact runEngine_configKeeps none s
    | true => exact ⟨s, by simp [step, hq, hr], .refl s⟩
  | cons m rest =>
    have htail : ConfigKeeps s { s with sched := rest } := ⟨rfl, rfl⟩
    cases hr : s.inReset with
    | false =>
      rw [step_move s m rest hr hq]
      obtain ⟨t, e, ht⟩ := runMove_configKeeps m { s with sched := rest }
      exact ⟨t, e, htail.trans ht⟩
    | true =>
      have hm : ∀ c, m ≠ .cfgWrite c := by
        rintro c rfl
        exact h c ⟨hr, by simp [hq]⟩
      rw [step_reset s m rest hr hq]
      obtain ⟨t, e, ht⟩ := moveInReset_configKeeps m { s with sched := rest } hm
      exact ⟨t, e, htail.trans ht⟩

/-! ## The obligations -/

/-- Settles O30: a step that is not the platform's write keeps the configuration, and one that is writes a legal one. -/
theorem configurationIsStatic : Obligations.ConfigurationIsStatic := by
  intro s t e
  by_cases hw : ∃ c, WritesConfig c s
  · obtain ⟨c, hc⟩ := hw
    rw [step_of_writesConfig c s hc] at e
    split at e
    · next hlegal =>
      cases e
      obtain ⟨hr, hhead⟩ := hc
      exact ⟨rfl, .inr ⟨hr, hhead, (cfgLegal_iff c).mp hlegal⟩⟩
    · cases e
  · obtain ⟨u, hu, hkeeps⟩ := step_configKeeps s (not_exists.mp hw)
    cases hu.symm.trans e
    exact ⟨hkeeps.params, .inl hkeeps.cfg⟩

/-- Settles O49: the write is legal or refused, and every other step answers a next state. -/
theorem onlyIllegalConfigurationIsRefused : Obligations.OnlyIllegalConfigurationIsRefused := by
  intro s
  by_cases hw : ∃ c, WritesConfig c s
  · obtain ⟨c, hc⟩ := hw
    have hstep := step_of_writesConfig c s hc
    obtain ⟨hr, hhead⟩ := hc
    obtain ⟨rest, hq⟩ := List.head?_eq_some_iff.mp hhead
    cases hlegal : cfgLegal c with
    | false =>
      rw [hlegal] at hstep
      exact .inl ⟨c, rest, hr, hq, (cfgLegal_eq_false_iff c).mp hlegal, hstep⟩
    | true =>
      rw [hlegal] at hstep
      refine .inr ⟨fun c' rest' _ hq' => ?_, _, hstep⟩
      cases hq.symm.trans hq'
      exact (cfgLegal_iff c).mp hlegal
  · obtain ⟨t, e, -⟩ := step_configKeeps s (not_exists.mp hw)
    exact .inr ⟨fun c rest hr hq => absurd ⟨c, hr, by simp [hq]⟩ hw, t, e⟩

end Sys2Proof.Machine
end

section
/-! SUPPORT. The memory of the block (20_memory.md): what a store does to each cell, which banks a wire request can store into, and the obligations on the access primitives. -/

namespace Sys2Proof.Machine

/-! ## Cells after an access -/

/-- A value that a cell can hold (R65) is kept whole. -/
theorem narrow_of_holds (k : BankId) (v : Word) (h : k = .di ∨ k = .coil → v = 0 ∨ v = 1) : narrow k v = v := by
  cases k with
  | di => rcases h (.inl rfl) with rfl | rfl <;> rfl
  | coil => rcases h (.inr rfl) with rfl | rfl <;> rfl
  | ir => rfl
  | hr => rfl

/-- Every cell after `MemWrite`: the one it names, if that exists, holds the value, and no other changes (R64). -/
theorem memWrite_cell (k k' : BankId) (a a' : Nat) (v : Word) (s : State) :
    (memWrite k a v s).2.cell k' a' =
      if a < capOf s.cfg k ∧ k' = k ∧ a' = a then narrow k v else s.cell k' a' := by
  rcases memWrite_cases k a v s with ⟨ha, e⟩ | ⟨ha, e⟩
  · simp [e, ha, State.cell]
  · simp [e, Nat.not_lt.mpr ha]

/-- The one event that an access to a cell may emit (R63, R64). -/
theorem emitIf_emitted (k : BankId) (kind : CbKind) (a : Nat) (v : Word) (s : State) :
    Emitted s (emitIf k kind a v s) (accessEvents s.cfg k kind a 1 (fun _ => v)) :=
  emitted_emitIf k kind a 0 (fun _ => v) rfl rfl (emitted_nil s)

/-- Settles O23: the two cases of `MemRead`. -/
theorem memReadRule : Obligations.MemReadRule := by
  intro k a s
  refine ⟨fun ha => ?_, fun ha => ?_, memRead_banks k a s⟩
  · have e : memRead k a s = (s.cell k a, emitIf k .read a (s.cell k a) s) := if_pos ha
    rw [e]
    exact ⟨rfl, emitIf_emitted k .read a _ s⟩
  · exact if_neg (Nat.not_lt.mpr ha)

/-- Settles O24: the two cases of `MemWrite`, and that the cell keeps the value whole. -/
theorem memWriteRule : Obligations.MemWriteRule := by
  intro k a v s hv
  refine ⟨fun ha => ?_, fun ha => if_neg (Nat.not_lt.mpr ha)⟩
  have e : memWrite k a v s = (true, emitIf k .write a v { s with banks := bankSet s.banks k a v }) := if_pos ha
  refine ⟨by rw [e], fun k' a' => ?_, ?_⟩
  · rw [memWrite_cell, narrow_of_holds k v hv]
    simp only [ha, true_and]
  · rw [e]
    exact emitIf_emitted k .write a v { s with banks := bankSet s.banks k a v }

/-! ## Host accesses -/

/-- A Get of a bank is `hostGet` of it. -/
theorem exec_of_hostGetOp {i : Instr} {k : BankId} {addr : Word} (h : HostGetOp i k addr) (s : State) :
    exec i s = .next (hostGet k addr s) := by
  rcases h with ⟨rfl, rfl⟩ | ⟨rfl, rfl⟩ | ⟨rfl, rfl⟩ | ⟨rfl, rfl⟩ <;> rfl

/-- A Set of a bank is `hostSet` of it. -/
theorem exec_of_hostSetOp {i : Instr} {k : BankId} {addr value stored : Word} (h : HostSetOp i k addr value stored)
    (s : State) : exec i s = .next (hostSet k addr value s) := by
  rcases h with ⟨rfl, rfl, -⟩ | ⟨rfl, rfl, -⟩ | ⟨rfl, rfl, -⟩ | ⟨rfl, rfl, -⟩ <;> rfl

/-- The value a Set stores is the one R292 gives. -/
theorem hostSetOp_stored {i : Instr} {k : BankId} {addr value stored : Word} (h : HostSetOp i k addr value stored) :
    stored = hostValue k value := by
  have bit : (if value = 0 then 0 else 1 : Word) = bitWord (decide (value ≠ 0)) := by
    by_cases hv : value = 0 <;> simp [hv, bitWord]
  rcases h with ⟨-, rfl, rfl⟩ | ⟨-, rfl, rfl⟩ | ⟨-, rfl, rfl⟩ | ⟨-, rfl, rfl⟩
  · exact bit
  · exact bit
  · rfl
  · rfl

/-- A Get answers what `MemRead` gives: the cell below the capacity, 0 from it on. -/
theorem hostGet_hostResp (k : BankId) (addr : Word) (s : State) :
    (hostGet k addr s).hostResp =
      some (.value (if addr.toNat < capOf s.cfg k then s.cell k addr.toNat else 0)) := by
  unfold hostGet memRead
  split <;> rfl

/-- Every cell after a Set: the one it names, if that exists, holds the value of R292, and no other changes. -/
theorem hostSet_cell (k k' : BankId) (addr value : Word) (a' : Nat) (s : State) :
    (hostSet k addr value s).cell k' a' =
      if addr.toNat < capOf s.cfg k ∧ k' = k ∧ a' = addr.toNat then hostValue k value else s.cell k' a' := by
  have h := memWrite_cell k k' addr.toNat a' (hostValue k value) s
  rwa [narrow_hostValue] at h

/-- Settles O27: the Get reads the cell that the Set has just stored. -/
theorem getAfterSetAnswersStoredValue : Obligations.GetAfterSetAnswersStoredValue := by
  intro i j k addr value stored s t u hset hget ha hi hj
  rw [exec_of_hostSetOp hset] at hi
  rw [exec_of_hostGetOp hget] at hj
  cases hi
  cases hj
  have hcfg : (hostSet k addr value s).cfg = s.cfg := (hostSet_configKeeps k addr value s).cfg
  rw [hostGet_hostResp, hcfg, if_pos ha, hostSet_cell, if_pos ⟨ha, rfl, rfl⟩, hostSetOp_stored hset]

/-! ## The banks a wire request can store into (R61) -/

/-- A function unit that never stores into bank `k`. -/
structure HandlerUnit.Spares (u : HandlerUnit) (k : BankId) : Prop where
  access : ∀ i buf s a, (u.access i buf s).cell k a = s.cell k a
  done : ∀ buf s a, (u.done buf s).cell k a = s.cell k a

theorem noUnit_spares (k : BankId) : noUnit.Spares k := ⟨fun _ _ _ _ => rfl, fun _ _ _ => rfl⟩

theorem readBits_spares (k k' : BankId) (addr qty : Word) : (readBits k addr qty).Spares k' where
  access _ _ _ _ := by simp [readBits, State.cell]
  done _ _ _ := rfl

theorem readWords_spares (k k' : BankId) (addr qty : Word) : (readWords k addr qty).Spares k' where
  access _ _ _ _ := by simp [readWords, State.cell]
  done _ _ _ := rfl

theorem memWrite_cell_of_ne {k k' : BankId} (hk : k' ≠ k) (a a' : Nat) (v : Word) (s : State) :
    (memWrite k a v s).2.cell k' a' = s.cell k' a' := by
  rw [memWrite_cell, if_neg (fun h => hk h.2.1)]

theorem writeSingle_spares {k k' : BankId} (hk : k' ≠ k) (addr arg value : Word) :
    (writeSingle k addr arg value).Spares k' where
  access i buf s a := by
    show State.cell (if (memWrite k addr.toNat value s).1 then _ else _) k' a = s.cell k' a
    split
    · exact memWrite_cell_of_ne hk addr.toNat a value s
    · rfl
  done _ _ _ := rfl

theorem writeMultiple_spares {k k' : BankId} (hk : k' ≠ k) (addr qty : Word) (check : Cfg → Option Byte) (n : Nat)
    (value : Nat → Word) : (writeMultiple k addr qty check n value).Spares k' where
  access i _ s a := memWrite_cell_of_ne hk (addr.toNat + i) a (value i) s
  done _ _ _ := rfl

/-- The dispatcher's first step stores nothing (R168). -/
@[simp] theorem dispatchStart_banks (id func : Byte) (pf : Bool) (u : HandlerUnit) (s : State) :
    (dispatchStart id func pf u s).banks = s.banks := by
  rcases dispatchStart_cases id func pf u s with
    ⟨_, e⟩ | ⟨_, _, e⟩ | ⟨_, _, _, e⟩ | ⟨_, _, _, code, _, e⟩ | ⟨_, _, _, _, e⟩ <;> simp [e]

/-- The last internal step stores nothing (R251). -/
@[simp] theorem endProcess_banks (s : State) : (endProcess s).banks = s.banks := by
  rcases endProcess_cases s with ⟨_, _, e⟩ | ⟨_, _, _, e⟩ | ⟨_, _, _, e⟩ <;> simp [e]

/-- An internal step stores only what the unit's accesses and its builder call store (R252). -/
theorem internalStep_cell (id func : Byte) (pf : Bool) {u : HandlerUnit} {k : BankId} (hu : u.Spares k) (s : State)
    (a : Nat) : (internalStep id func pf u s).cell k a = s.cell k a := by
  unfold internalStep
  cases s.pos with
  | decode => simp [State.cell]
  | dispatch => simp [State.cell]
  | access i buf =>
    dsimp only
    split
    · exact hu.access i buf s a
    · exact hu.done buf s a
  | finish => simp [State.cell]
  | encode => simp [State.cell]

/-- A turn of any length leaves the banks that the unit spares. -/
theorem process_cell (id func : Byte) (pf : Bool) {u : HandlerUnit} {k : BankId} (hu : u.Spares k) (s : State)
    (a : Nat) : (process id func pf u s).cell k a = s.cell k a :=
  advance_keeps (fun t => t.cell k a = s.cell k a) _
    (fun t _ h => (internalStep_cell id func pf hu t a).trans h) _ s rfl

/-- A wire request is handled by a unit that spares every bank but the coils and the holding registers (R61). -/
theorem exec_of_wireRequest {i : Instr} {id func : Byte} (h : WireRequest i id func) :
    ∃ u : HandlerUnit, (∀ k, k ≠ .coil → k ≠ .hr → u.Spares k) ∧
      ∀ s, exec i s = .next (process id func false u s) := by
  rcases h with ⟨a, q, rfl, rfl⟩ | ⟨a, q, rfl, rfl⟩ | ⟨a, q, rfl, rfl⟩ | ⟨a, q, rfl, rfl⟩ | ⟨a, v, rfl, rfl⟩ |
    ⟨a, v, rfl, rfl⟩ | ⟨a, q, d, rfl, rfl⟩ | ⟨a, q, d, rfl, rfl⟩ | rfl
  · exact ⟨_, fun k _ _ => readBits_spares .coil k a q, fun _ => rfl⟩
  · exact ⟨_, fun k _ _ => readBits_spares .di k a q, fun _ => rfl⟩
  · exact ⟨_, fun k _ _ => readWords_spares .hr k a q, fun _ => rfl⟩
  · exact ⟨_, fun k _ _ => readWords_spares .ir k a q, fun _ => rfl⟩
  · exact ⟨_, fun _ hcoil _ => writeSingle_spares hcoil a v (coilValue v), fun _ => rfl⟩
  · exact ⟨_, fun _ _ hhr => writeSingle_spares hhr a v v, fun _ => rfl⟩
  · exact ⟨_, fun _ hcoil _ => writeMultiple_spares hcoil a q (checkCoils a q) (coilsWritten q d) (dataBit d),
      fun _ => rfl⟩
  · exact ⟨_, fun _ _ hhr => writeMultiple_spares hhr a q (checkRegs a q d) (regsWritten q d) (dataWord d),
      fun _ => rfl⟩
  · exact ⟨_, fun k _ _ => noUnit_spares k, fun _ => rfl⟩

/-- Settles O15: the turn leaves every bank that the request's unit spares, `DI` and `IR` among them. -/
theorem noRequestWritesDiscreteOrInput : Obligations.NoRequestWritesDiscreteOrInput := by
  intro i id func s t hi e a
  obtain ⟨u, hspares, hexec⟩ := exec_of_wireRequest hi
  rw [hexec s] at e
  cases e
  exact ⟨process_cell id func false (hspares .di (by decide) (by decide)) s a,
    process_cell id func false (hspares .ir (by decide) (by decide)) s a⟩

/-! ## A multiple write cut short (R69, R252) -/

/-- A turn of `n + 1` internal steps that begins at the dispatcher: its step, then `n` more. -/
theorem process_dispatch (id func : Byte) (pf : Bool) (u : HandlerUnit) (n : Nat) (s : State)
    (hs : s.frState = .process) (hp : s.pos = .dispatch) (hq : s.quantum = some (n + 1)) :
    process id func pf u s = advance (internalStep id func pf u) n (dispatchStart id func pf u s) := by
  unfold process
  rw [hq, Option.getD_some, advance_process _ _ _ hs, internalStep_dispatch _ _ _ _ _ hp]

/-- A request in the range of `WR_COILS` passes its check. -/
theorem checkCoils_eq_none {addr qty : Word} {c : Cfg} (h : addr.toNat + qty.toNat < capOf c .coil) :
    checkCoils addr qty c = none := by
  simp [checkCoils, inRange, h]

/-- A request in the range of `WR_REGS`, with whole registers, passes its checks. -/
theorem checkRegs_eq_none {addr qty : Word} {data : List Byte} {c : Cfg}
    (h : addr.toNat + qty.toNat < capOf c .hr) (heven : data.length % 2 = 0) : checkRegs addr qty data c = none := by
  simp [checkRegs, inRange, h, heven]

/-- The unit that handles a multiple write: its check passes in range, and it makes at most `qty` stores of values that its
cells keep whole (R202, R203). -/
theorem exec_of_multiWrite {i : Instr} {k : BankId} {id func : Byte} {addr qty : Word} {data : List Byte} {n : Nat}
    {value : Nat → Word} (h : MultiWrite i k id func addr qty data n value) :
    ∃ check : Cfg → Option Byte,
      (∀ s, exec i s = .next (process id func false (writeMultiple k addr qty check n value) s)) ∧
      (∀ c, addr.toNat + qty.toNat < capOf c k → (k = .hr → data.length % 2 = 0) → check c = none) ∧
      n ≤ qty.toNat ∧ ∀ j, narrow k (value j) = value j := by
  rcases h with ⟨rfl, rfl, rfl, rfl, hv⟩ | ⟨rfl, rfl, rfl, rfl, hv⟩
  · obtain rfl : value = dataBit data := funext hv
    exact ⟨checkCoils addr qty, fun _ => rfl, fun _ hc _ => checkCoils_eq_none hc, Nat.min_le_left ..,
      fun _ => narrow_bitWord _ _⟩
  · obtain rfl : value = dataWord data := funext hv
    exact ⟨checkRegs addr qty data, fun _ => rfl, fun _ hc he => checkRegs_eq_none hc (he rfl), Nat.min_le_left ..,
      fun _ => rfl⟩

/-- Settles O21: the dispatcher's step leads to the first access, and the rest of the turn is a run of `j` accesses. -/
theorem multipleWriteIsSeenHalfDone : Obligations.MultipleWriteIsSeenHalfDone := by
  intro i k id func addr qty data n value s j hi hs hp hq hh hrange heven hj
  obtain ⟨check, hexec, hcheck, hn, hnarrow⟩ := exec_of_multiWrite hi
  have hstart := (dispatchStart_handled id func (writeMultiple k addr qty check n value) s hh).2
    (hcheck s.cfg hrange heven)
  have hcap : addr.toNat + n ≤ capOf s.cfg k := by omega
  obtain ⟨t, ht, hkeeps, _, hpos, hcells, _⟩ :=
    write_run id func false (writeMultiple k addr qty check n value) k addr.toNat value hnarrow (fun _ _ _ => rfl)
      ((scaffold id func s).setPos (.access 0 [])) hs rfl hcap j hj
  refine ⟨t, ?_, hkeeps.frState.trans hs, hpos, hcells⟩
  rw [hexec, process_dispatch id func false _ j s hs hp hq, hstart]
  exact congrArg _ ht

end Sys2Proof.Machine
end

section
/-! SUPPORT. The encoder and the decoder of the wire and of the host port undo each other (R92 to R96, R110, R140, R280). -/

namespace Sys2Proof

/-! ## The taken frame -/

@[simp] theorem frameOf_len (bytes : List Byte) : (frameOf bytes).len = bytes.length := rfl

/-- Every byte that the buffer stores is the byte received (R247). -/
theorem frameByte_frameOf (bytes : List Byte) {i : Nat} (h : i < Config.accDepth) :
    frameByte (frameOf bytes) i = bytes.getD i 0 := by
  simp [frameByte, frameOf, List.getElem?_take_of_lt h]

/-! ## The trailing CRC (R96, R147) -/

theorem exists_append_pair (bytes : List Byte) (h : 2 ≤ bytes.length) : ∃ p lo hi, bytes = p ++ [lo, hi] := by
  obtain ⟨lo, hi, e⟩ : ∃ lo hi, bytes.drop (bytes.length - 2) = [lo, hi] :=
    List.length_eq_two.mp (by rw [List.length_drop]; omega)
  exact ⟨bytes.take (bytes.length - 2), lo, hi, by rw [← e, List.take_append_drop]⟩

/-- The comparison that the decoder makes holds exactly for the sequences that carry their own CRC. -/
theorem crc_fits_iff (bytes : List Byte) (h : 2 ≤ bytes.length) :
    crc16 (bytes.take (bytes.length - 2)) =
        be16 (bytes.getD (bytes.length - 1) 0) (bytes.getD (bytes.length - 2) 0) ↔
      ∃ p, bytes = withCrc p := by
  obtain ⟨p, lo, hi, rfl⟩ := exists_append_pair bytes h
  constructor
  · intro e
    have hcrc : crc16 p = be16 hi lo := by simpa using e
    exact ⟨p, by simp [withCrc, leBytes, hcrc]⟩
  · rintro ⟨q, e⟩
    obtain ⟨rfl, htrailer⟩ := List.append_inj' e rfl
    obtain ⟨rfl, rfl⟩ : lo = loByte (crc16 p) ∧ hi = hiByte (crc16 p) := by simpa [leBytes] using htrailer
    simp

theorem checkCrc_ok_iff (bytes : List Byte) (r : Request) (h : 2 ≤ bytes.length) (hfit : bytes.length ≤ Config.accDepth) :
    (checkCrc (frameOf bytes) r).result = .ok ↔ ∃ p, bytes = withCrc p := by
  rw [← crc_fits_iff bytes h, frameOf_eq bytes hfit]
  simp [checkCrc, frameByte]

/-- The CRC that the encoder appends passes the decoder's check. -/
theorem checkCrc_withCrc (p : List Byte) (r : Request) (hfit : p.length + 2 ≤ Config.accDepth) :
    checkCrc (frameOf (withCrc p)) r = { r with crc := crc16 p, result := .ok } := by
  rw [frameOf_eq _ (by simpa using hfit)]
  simp [checkCrc, frameByte, withCrc, leBytes]

/-- Bytes before the CRC stand where they stood. -/
theorem frameByte_withCrc (p : List Byte) {n : Nat} (hn : n ≤ p.length) (hfit : n ≤ Config.accDepth) :
    ∀ i < n, frameByte (frameOf (withCrc p)) i = p.getD i 0 := by
  intro i hi
  rw [frameByte_frameOf _ (hi.trans_le hfit), withCrc, List.getD_append _ _ _ _ (hi.trans_le hn)]

/-- The format is selected by the second byte of the body (R142). -/
theorem formatOf_withCrc (p : List Byte) (h : 2 ≤ p.length) :
    formatOf (frameByte (frameOf (withCrc p)) 1) = formatOf (p.getD 1 0) :=
  congrArg formatOf (frameByte_withCrc p h (by decide) 1 (by decide))

/-! ## The decoder, one equation a format (R140) -/

/-- The request registers once the id and the function code are read, with every other field still zero (R140). -/
def requestHeader (f : Frame) : Request := { emptyRequest with id := frameByte f 0, func := frameByte f 1 }

section
variable {f : Frame} (hlen : 2 ≤ f.len)
include hlen

theorem decodeRequest_of_rd (hf : formatOf (frameByte f 1) = .rd) : decodeRequest f = decodeRd f (requestHeader f) := by
  simp [decodeRequest, requestHeader, Nat.not_lt.mpr hlen, hf]

theorem decodeRequest_of_ws (hf : formatOf (frameByte f 1) = .ws) : decodeRequest f = decodeWs f (requestHeader f) := by
  simp [decodeRequest, requestHeader, Nat.not_lt.mpr hlen, hf]

theorem decodeRequest_of_wm (hf : formatOf (frameByte f 1) = .wm) : decodeRequest f = decodeWm f (requestHeader f) := by
  simp [decodeRequest, requestHeader, Nat.not_lt.mpr hlen, hf]

theorem decodeRequest_of_unknown (hf : formatOf (frameByte f 1) = .unknown) :
    decodeRequest f = { requestHeader f with result := .unknownFunction } := by
  simp [decodeRequest, requestHeader, Nat.not_lt.mpr hlen, hf]

end

/-! ## Decoding a body with its CRC -/

theorem requestHeader_withCrc (p : List Byte) (h : 2 ≤ p.length) :
    requestHeader (frameOf (withCrc p)) = { emptyRequest with id := p.getD 0 0, func := p.getD 1 0 } := by
  have hbyte := frameByte_withCrc p h (by decide)
  simp only [requestHeader, hbyte, Nat.reduceLT]

section
variable (p : List Byte) (r : Request)

theorem decodeRd_withCrc (h : p.length = 6) :
    decodeRd (frameOf (withCrc p)) r =
      { r with
        addr := be16 (p.getD 2 0) (p.getD 3 0)
        qty := be16 (p.getD 4 0) (p.getD 5 0)
        crc := crc16 p
        result := .ok } := by
  have hbyte := frameByte_withCrc p h.ge (by decide)
  rw [decodeRd, if_neg (by simp [h]), checkCrc_withCrc p _ (by simp [h, Config.accDepth])]
  simp only [hbyte, Nat.reduceLT]

theorem decodeWs_withCrc (h : p.length = 6) :
    decodeWs (frameOf (withCrc p)) r =
      { r with
        addr := be16 (p.getD 2 0) (p.getD 3 0)
        qty := 1
        data := [p.getD 4 0, p.getD 5 0]
        crc := crc16 p
        result := .ok } := by
  have hbyte := frameByte_withCrc p h.ge (by decide)
  rw [decodeWs, if_neg (by simp [h]), checkCrc_withCrc p _ (by simp [h, Config.accDepth])]
  simp only [hbyte, Nat.reduceLT]

theorem decodeWm_withCrc (h : p.length = 7 + (p.getD 6 0).toNat) :
    decodeWm (frameOf (withCrc p)) r =
      { r with
        addr := be16 (p.getD 2 0) (p.getD 3 0)
        qty := be16 (p.getD 4 0) (p.getD 5 0)
        bc := p.getD 6 0
        data := p.drop 7
        crc := crc16 p
        result := .ok } := by
  have hbyte := frameByte_withCrc p (n := 7) (by omega) (by decide)
  have hfit : p.length + 2 ≤ Config.accDepth := by
    have := (p.getD 6 0).isLt
    simp only [Config.accDepth]
    omega
  have hdata : ((frameOf (withCrc p)).bytes.drop 7).take (p.getD 6 0).toNat = p.drop 7 := by
    have hdrop : (p.drop 7).length = (p.getD 6 0).toNat := by rw [List.length_drop]; omega
    rw [frameOf_eq _ (by simpa using hfit), withCrc, List.drop_append_of_le_length (by omega), ← hdrop, List.take_left]
  have hlen : (frameOf (withCrc p)).len = 9 + (p.getD 6 0).toNat := by
    rw [frameOf_len, withCrc_length]
    omega
  have hlong : ¬ 9 + (p.getD 6 0).toNat < 7 := by omega
  simp only [decodeWm, hbyte, Nat.reduceLT, hlen, hlong, hdata, checkCrc_withCrc p _ hfit, ne_eq, not_true, if_false]

end

/-! ## Decoding what the encoder writes -/

/-- A read request gives back all its operands (R92, R143). -/
theorem decodeRequest_encodedRd {id func : Byte} {addr qty : Word} (hf : formatOf func = .rd) :
    decodeRequest (frameOf (withCrc (shortBody id func addr qty))) =
      { emptyRequest with id, func, addr, qty, crc := crc16 (shortBody id func addr qty) } := by
  rw [decodeRequest_of_rd (by simp) ((formatOf_withCrc (shortBody id func addr qty) (by simp)).trans hf),
    requestHeader_withCrc _ (by simp), decodeRd_withCrc _ _ rfl]
  simp [emptyRequest, shortBody, beBytes]

/-- A single write gives back its address, and its argument as two raw bytes (R93, R144). -/
theorem decodeRequest_encodedWs {id func : Byte} {addr arg : Word} (hf : formatOf func = .ws) :
    decodeRequest (frameOf (withCrc (shortBody id func addr arg))) =
      { emptyRequest with id, func, addr, qty := 1, data := beBytes arg, crc := crc16 (shortBody id func addr arg) } := by
  rw [decodeRequest_of_ws (by simp) ((formatOf_withCrc (shortBody id func addr arg) (by simp)).trans hf),
    requestHeader_withCrc _ (by simp), decodeWs_withCrc _ _ rfl]
  simp [emptyRequest, shortBody, beBytes]

/-- A multiple write gives back all its operands when one byte can count its data (R94, R145). -/
theorem decodeRequest_encodedWm {id func : Byte} {addr qty : Word} {data : List Byte} (hf : formatOf func = .wm)
    (hdata : data.length ≤ 255) :
    decodeRequest (frameOf (withCrc (longBody id func addr qty data))) =
      { emptyRequest with
        id, func, addr, qty, data
        bc := BitVec.ofNat 8 data.length
        crc := crc16 (longBody id func addr qty data) } := by
  have hcount : (longBody id func addr qty data).length = 7 + (BitVec.ofNat 8 data.length).toNat := by
    rw [longBody_length, BitVec.toNat_ofNat]
    omega
  have htwo : 2 ≤ (longBody id func addr qty data).length := by omega
  rw [decodeRequest_of_wm (by simp) ((formatOf_withCrc _ htwo).trans hf),
    requestHeader_withCrc _ htwo, decodeWm_withCrc _ _ hcount]
  simp [emptyRequest, longBody, shortBody, beBytes]

/-- An illegal function is decoded from its first two bytes, whatever follows them (R112, R146). -/
theorem decode_illegalFn {id func : Byte} (rest : List Byte) (hf : formatOf func = .unknown) :
    decode (.frame (id :: func :: rest)) = .instr (.illegalFn id func) := by
  have h0 : frameByte (frameOf (id :: func :: rest)) 0 = id := frameByte_frameOf _ (by decide)
  have h1 : frameByte (frameOf (id :: func :: rest)) 1 = func := frameByte_frameOf _ (by decide)
  rw [decode, decodeRequest_of_unknown (by simp) (by rw [h1, hf])]
  simp [decodedOf, requestHeader, h0, h1]

/-- Settles O1: the registers that each format leaves hold the operands, and the function code selects the row. -/
theorem decodeOfEncodeIsTheInstruction : Obligations.DecodeOfEncodeIsTheInstruction := by
  intro i hwf
  cases i with
  | rdCoils => exact congrArg decodedOf (decodeRequest_encodedRd rfl)
  | rdDiscrete => exact congrArg decodedOf (decodeRequest_encodedRd rfl)
  | rdHolding => exact congrArg decodedOf (decodeRequest_encodedRd rfl)
  | rdInput => exact congrArg decodedOf (decodeRequest_encodedRd rfl)
  | wrCoil id addr arg =>
    refine (congrArg decodedOf (decodeRequest_encodedWs rfl)).trans ?_
    simp [decodedOf, requestInstr, emptyRequest, beBytes]
  | wrReg id addr arg =>
    refine (congrArg decodedOf (decodeRequest_encodedWs rfl)).trans ?_
    simp [decodedOf, requestInstr, emptyRequest, beBytes]
  | wrCoils => exact congrArg decodedOf (decodeRequest_encodedWm rfl (of_decide_eq_true hwf))
  | wrRegs => exact congrArg decodedOf (decodeRequest_encodedWm rfl (of_decide_eq_true hwf))
  | illegalFn id func =>
    exact decode_illegalFn _ ((formatOf_unknown func).mpr (by simpa [Instr.wf] using hwf))
  | getDi => rfl
  | getCoil => rfl
  | getIr => rfl
  | getHr => rfl
  | setDi => rfl
  | setCoil => rfl
  | setIr => rfl
  | setHr => rfl

/-! ## The frames that the decoder accepts -/

/-- The frame of a well-formed operation. -/
def IsEncoding (bytes : List Byte) : Prop := ∃ i : Instr, i.wf = true ∧ encode i = .frame bytes

/-- Six bytes with a CRC are a request when the second is a code of the formats RD and WS (R92, R93). -/
theorem isEncoding_of_length_six {p : List Byte} (hlen : p.length = 6)
    (hf : formatOf (p.getD 1 0) = .rd ∨ formatOf (p.getD 1 0) = .ws) : IsEncoding (withCrc p) := by
  match p, hlen with
  | [id, func, a, b, c, d], _ =>
    have hp : [id, func, a, b, c, d] = shortBody id func (be16 a b) (be16 c d) := by simp [shortBody, beBytes]
    replace hf : formatOf func = .rd ∨ formatOf func = .ws := hf
    rw [hp]
    rcases formatOf_cases func with ⟨_, rfl | rfl | rfl | rfl⟩ | ⟨_, rfl | rfl⟩ | ⟨e, _⟩ | ⟨e, _⟩
    · exact ⟨.rdCoils id (be16 a b) (be16 c d), rfl, rfl⟩
    · exact ⟨.rdDiscrete id (be16 a b) (be16 c d), rfl, rfl⟩
    · exact ⟨.rdHolding id (be16 a b) (be16 c d), rfl, rfl⟩
    · exact ⟨.rdInput id (be16 a b) (be16 c d), rfl, rfl⟩
    · exact ⟨.wrCoil id (be16 a b) (be16 c d), rfl, rfl⟩
    · exact ⟨.wrReg id (be16 a b) (be16 c d), rfl, rfl⟩
    · simp [e] at hf
    · simp [e] at hf

/-- Seven bytes and the data that the seventh counts, with a CRC, are a request when the second is a code of the format WM (R94). -/
theorem isEncoding_of_counted {p : List Byte} (hlen : p.length = 7 + (p.getD 6 0).toNat)
    (hf : formatOf (p.getD 1 0) = .wm) : IsEncoding (withCrc p) := by
  match p, hlen with
  | id :: func :: a :: b :: c :: d :: bc :: data, hlen =>
    replace hf : formatOf func = .wm := hf
    have hcount : data.length = bc.toNat := by
      replace hlen : data.length + 7 = 7 + bc.toNat := hlen
      omega
    have hwf : decide (data.length ≤ 255) = true := by
      have := bc.isLt
      exact decide_eq_true (by omega)
    have hp : id :: func :: a :: b :: c :: d :: bc :: data = longBody id func (be16 a b) (be16 c d) data := by
      simp [longBody, shortBody, beBytes, hcount]
    rw [hp]
    rcases formatOf_cases func with ⟨e, _⟩ | ⟨e, _⟩ | ⟨_, rfl | rfl⟩ | ⟨e, _⟩
    · simp [e] at hf
    · simp [e] at hf
    · exact ⟨.wrCoils id (be16 a b) (be16 c d) data, hwf, rfl⟩
    · exact ⟨.wrRegs id (be16 a b) (be16 c d) data, hwf, rfl⟩
    · simp [e] at hf

theorem decodeRd_ok {f : Frame} {r : Request} (h : (decodeRd f r).result = .ok) :
    f.len = 8 ∧ ∃ r', (checkCrc f r').result = .ok := by
  unfold decodeRd at h
  split at h
  · cases h
  · next hlen => exact ⟨not_not.mp hlen, _, h⟩

theorem decodeWs_ok {f : Frame} {r : Request} (h : (decodeWs f r).result = .ok) :
    f.len = 8 ∧ ∃ r', (checkCrc f r').result = .ok := by
  unfold decodeWs at h
  split at h
  · cases h
  · next hlen => exact ⟨not_not.mp hlen, _, h⟩

theorem decodeWm_ok {f : Frame} {r : Request} (h : (decodeWm f r).result = .ok) :
    f.len = 9 + (frameByte f 6).toNat ∧ ∃ r', (checkCrc f r').result = .ok := by
  unfold decodeWm at h
  split at h
  · cases h
  · dsimp only at h
    split at h
    · cases h
    · next hlen => exact ⟨not_not.mp hlen, _, h⟩

/-- A frame of the formats RD and WS that passes both checks. -/
theorem isEncoding_of_short {bytes : List Byte}
    (hf : formatOf (frameByte (frameOf bytes) 1) = .rd ∨ formatOf (frameByte (frameOf bytes) 1) = .ws)
    (h : (frameOf bytes).len = 8 ∧ ∃ r, (checkCrc (frameOf bytes) r).result = .ok) : IsEncoding bytes := by
  obtain ⟨hlen, r, hcrc⟩ := h
  rw [frameOf_len] at hlen
  obtain ⟨p, rfl⟩ := (checkCrc_ok_iff bytes r (by omega) (by simp [hlen, Config.accDepth])).mp hcrc
  have hp : p.length = 6 := by simpa using hlen
  rw [formatOf_withCrc p (by omega)] at hf
  exact isEncoding_of_length_six hp hf

/-- A frame of the format WM that passes both checks. -/
theorem isEncoding_of_long {bytes : List Byte} (hf : formatOf (frameByte (frameOf bytes) 1) = .wm)
    (h : (frameOf bytes).len = 9 + (frameByte (frameOf bytes) 6).toNat ∧
      ∃ r, (checkCrc (frameOf bytes) r).result = .ok) : IsEncoding bytes := by
  obtain ⟨hlen, r, hcrc⟩ := h
  rw [frameOf_len] at hlen
  have hfit : bytes.length ≤ Config.accDepth := by
    have := (frameByte (frameOf bytes) 6).isLt
    simp only [Config.accDepth]
    omega
  obtain ⟨p, rfl⟩ := (checkCrc_ok_iff bytes r (by omega) hfit).mp hcrc
  rw [withCrc_length] at hlen
  rw [formatOf_withCrc p (by omega)] at hf
  rw [frameByte_withCrc p (n := 7) (by omega) (by decide) 6 (by decide)] at hlen
  exact isEncoding_of_counted (by omega) hf

/-- A frame that the decoder accepts is the frame of a well-formed operation. -/
theorem isEncoding_of_decodeRequest_ok {bytes : List Byte} (h : (decodeRequest (frameOf bytes)).result = .ok) :
    IsEncoding bytes := by
  by_cases hlen : 2 ≤ (frameOf bytes).len
  · cases hf : formatOf (frameByte (frameOf bytes) 1) with
    | rd => exact isEncoding_of_short (.inl hf) (decodeRd_ok (decodeRequest_of_rd hlen hf ▸ h))
    | ws => exact isEncoding_of_short (.inr hf) (decodeWs_ok (decodeRequest_of_ws hlen hf ▸ h))
    | wm => exact isEncoding_of_long hf (decodeWm_ok (decodeRequest_of_wm hlen hf ▸ h))
    | unknown =>
      rw [decodeRequest_of_unknown hlen hf] at h
      cases h
  · rw [decodeRequest, if_pos (Nat.not_le.mp hlen)] at h
    cases h

/-- Only an accepted frame is an operation other than `ILLEGAL_FN` (R163). -/
theorem result_ok_of_decodedOf {r : Request} {i : Instr} (h : decodedOf r = .instr i)
    (hlegal : ∀ id func, i ≠ .illegalFn id func) : r.result = .ok := by
  unfold decodedOf at h
  cases hr : r.result with
  | ok => rfl
  | unknownFunction =>
    rw [hr] at h
    exact absurd (Decoded.instr.inj h).symm (hlegal r.id r.func)
  | damaged =>
    rw [hr] at h
    cases h
  | crcMismatch =>
    rw [hr] at h
    cases h

/-- Settles O2: the frame is the encoding of some well-formed operation, which by O1 is the one it decodes to. -/
theorem encodeOfDecodeIsTheFrame : Obligations.EncodeOfDecodeIsTheFrame := by
  intro bytes i hdecode hlegal
  obtain ⟨j, hwf, hencode⟩ := isEncoding_of_decodeRequest_ok (result_ok_of_decodedOf hdecode hlegal)
  have hj : decode (.frame bytes) = .instr j := hencode ▸ decodeOfEncodeIsTheInstruction j hwf
  obtain rfl : i = j := Decoded.instr.inj (hdecode.symm.trans hj)
  exact ⟨hencode, hwf⟩

end Sys2Proof
end

section
/-! SUPPORT. The obligations on the CRC engine (40_crc.md). -/

namespace Sys2Proof

/-- Settles O5: `withCrc` appends exactly these two bytes. The register's low byte cancels against the first, and the high byte,
moved down, against the second. -/
theorem appendedCrcLeavesZeroResidue : Obligations.AppendedCrcLeavesZeroResidue := by
  intro p
  calc crc16 (p ++ [loByte (crc16 p), hiByte (crc16 p)])
    _ = crc16 (withCrc p) := rfl
    _ = 0 := crc16_withCrc p

/-- V7: a byte equal to the seed's low byte cancels it, and the seed's high byte moves down. -/
theorem crc16_seed_loByte : crc16 [0xFF] = 0x00FF :=
  calc crc16 [0xFF]
    _ = crcByte 0xFFFF (loByte 0xFFFF) := rfl
    _ = (hiByte 0xFFFF).setWidth 16 := crcByte_loByte 0xFFFF
    _ = 0x00FF := rfl

/-- Settles O4: V1 to V3 run the engine, V5 is the seed, and V7 moves the seed's high byte down. -/
theorem crcOfSpecVectors : Obligations.CrcOfSpecVectors := by
  have v1 : crc16 [0x02, 0x07] = 0x1241 := by decide +kernel
  have v2 : crc16 [0x01, 0x01, 0x00, 0x00, 0x00, 0x08] = 0xCC3D := by decide +kernel
  have v3 : crc16 [0x01, 0x05, 0x00, 0x00, 0xFF, 0x00] = 0x3A8C := by decide +kernel
  have v5 : crc16 [] = 0xFFFF := rfl
  exact ⟨v1, v2, v3, v5, crc16_seed_loByte⟩

end Sys2Proof
end

section
/-! SUPPORT. The outcome of the request decoder for every frame (R140 to R149), and the decoded words of the spec. -/

namespace Sys2Proof

/-! ## The length a frame must have (R91) -/

/-- The length that byte 1 fixes, with the byte count for the format WM; `none` for an unknown code (R143 to R146). -/
def requiredLength (f : Frame) : Option Nat :=
  match formatOf (frameByte f 1) with
  | .rd => some 8
  | .ws => some 8
  | .wm => some (9 + (frameByte f 6).toNat)
  | .unknown => none

/-- Everything that fixes a length: a code of the formats RD and WS, or a code of the format WM with its byte count. -/
theorem requiredLength_eq_some_iff {f : Frame} {n : Nat} :
    requiredLength f = some n ↔
      ((formatOf (frameByte f 1) = .rd ∨ formatOf (frameByte f 1) = .ws) ∧ n = 8) ∨
        (formatOf (frameByte f 1) = .wm ∧ n = 9 + (frameByte f 6).toNat) := by
  unfold requiredLength
  cases formatOf (frameByte f 1) with
  | rd => simp [eq_comm]
  | ws => simp [eq_comm]
  | wm => simp [eq_comm]
  | unknown => simp

theorem formatOf_eq_unknown_iff (b : Byte) : formatOf b = .unknown ↔ b ∉ standardCodes := by
  rw [formatOf_unknown, List.contains_eq_mem, decide_eq_false_iff_not]

/-- Each of the eight function codes fixes a length. -/
theorem exists_requiredLength {f : Frame} (h : frameByte f 1 ∈ standardCodes) : ∃ n, requiredLength f = some n := by
  cases hf : formatOf (frameByte f 1) with
  | rd => exact ⟨8, requiredLength_eq_some_iff.mpr (.inl ⟨.inl hf, rfl⟩)⟩
  | ws => exact ⟨8, requiredLength_eq_some_iff.mpr (.inl ⟨.inr hf, rfl⟩)⟩
  | wm => exact ⟨_, requiredLength_eq_some_iff.mpr (.inr ⟨hf, rfl⟩)⟩
  | unknown => exact absurd h ((formatOf_eq_unknown_iff _).mp hf)

/-- The buffer holds every legal frame: none is longer than 9 + 255 bytes (R94). -/
theorem requiredLength_lt_accDepth {f : Frame} {n : Nat} (h : requiredLength f = some n) : n < Config.accDepth := by
  have hcount := (frameByte f 6).isLt
  rw [Config.accDepth]
  rcases requiredLength_eq_some_iff.mp h with ⟨_, rfl⟩ | ⟨_, rfl⟩ <;> omega

/-! ## The result of the decoder -/

/-- What the comparison of the trailing CRC gives (R147). -/
def crcResult (f : Frame) : ReqResult :=
  if crc16 (f.bytes.take (f.len - 2)) = be16 (frameByte f (f.len - 1)) (frameByte f (f.len - 2)) then .ok
  else .crcMismatch

@[simp] theorem checkCrc_result (f : Frame) (r : Request) : (checkCrc f r).result = crcResult f := rfl

theorem decodeRd_result (f : Frame) (r : Request) :
    (decodeRd f r).result = if f.len = 8 then crcResult f else .damaged := by
  by_cases h : f.len = 8 <;> simp [decodeRd, h]

theorem decodeWs_result (f : Frame) (r : Request) :
    (decodeWs f r).result = if f.len = 8 then crcResult f else .damaged := by
  by_cases h : f.len = 8 <;> simp [decodeWs, h]

/-- The check for 7 bytes only guards the read of the byte count: a shorter frame has not `9 + bc` bytes either. -/
theorem decodeWm_result (f : Frame) (r : Request) :
    (decodeWm f r).result = if f.len = 9 + (frameByte f 6).toNat then crcResult f else .damaged := by
  by_cases hshort : f.len < 7
  · have hne : f.len ≠ 9 + (frameByte f 6).toNat := by omega
    rw [decodeWm, if_pos hshort, if_neg hne]
  · rw [decodeWm, if_neg hshort]
    by_cases h : f.len = 9 + (frameByte f 6).toNat
    · rw [if_pos h]
      exact congrArg Request.result (if_neg (not_not.mpr h))
    · rw [if_neg h]
      exact congrArg Request.result (if_pos h)

theorem decodeRequest_result_of_short {f : Frame} (h : f.len < 2) : (decodeRequest f).result = .damaged := by
  rw [decodeRequest, if_pos h]

theorem decodeRequest_result_of_unknown {f : Frame} (hlen : 2 ≤ f.len) (h : frameByte f 1 ∉ standardCodes) :
    (decodeRequest f).result = .unknownFunction := by
  rw [decodeRequest_of_unknown hlen ((formatOf_eq_unknown_iff _).mpr h)]

/-- A known code: the length is checked first, then the CRC. -/
theorem decodeRequest_result_of_known {f : Frame} {n : Nat} (hlen : 2 ≤ f.len) (h : requiredLength f = some n) :
    (decodeRequest f).result = if f.len = n then crcResult f else .damaged := by
  rcases requiredLength_eq_some_iff.mp h with ⟨hf | hf, rfl⟩ | ⟨hf, rfl⟩
  · rw [decodeRequest_of_rd hlen hf, decodeRd_result]
  · rw [decodeRequest_of_ws hlen hf, decodeWs_result]
  · rw [decodeRequest_of_wm hlen hf, decodeWm_result]

/-! ## Received sequences -/

/-- The byte that selects the format is stored whatever the length. -/
@[simp] theorem frameByte_frameOf_one (bytes : List Byte) : frameByte (frameOf bytes) 1 = bytes.getD 1 0 :=
  frameByte_frameOf bytes (by decide)

theorem formatOf_short_iff (b : Byte) :
    (formatOf b = .rd ∨ formatOf b = .ws) ↔ b ∈ ([1, 2, 3, 4, 5, 6] : List Byte) := by
  revert b
  decide

theorem formatOf_wm_iff (b : Byte) : formatOf b = .wm ↔ b ∈ ([15, 16] : List Byte) := by
  revert b
  decide

/-- The length check of R91 is the comparison with the length that the stored bytes fix. -/
theorem lengthFits_iff (bytes : List Byte) :
    Machine.LengthFits bytes ↔ requiredLength (frameOf bytes) = some bytes.length := by
  have hcount : frameByte (frameOf bytes) 6 = bytes.getD 6 0 := frameByte_frameOf bytes (by decide)
  have hseven : 7 ≤ bytes.length ∧ bytes.length = 9 + (bytes.getD 6 0).toNat ↔
      bytes.length = 9 + (bytes.getD 6 0).toNat := ⟨And.right, fun h => ⟨by omega, h⟩⟩
  rw [requiredLength_eq_some_iff, frameByte_frameOf_one, hcount, formatOf_short_iff, formatOf_wm_iff,
    Machine.LengthFits, hseven]

/-- A sequence that fits the buffer is stored whole, so the comparison reads the bytes received. -/
theorem crcResult_frameOf {bytes : List Byte} (h : bytes.length ≤ Config.accDepth) :
    crcResult (frameOf bytes) =
      if crc16 (bytes.take (bytes.length - 2)) =
          be16 (bytes.getD (bytes.length - 1) 0) (bytes.getD (bytes.length - 2) 0) then .ok
      else .crcMismatch := by
  rw [frameOf_eq bytes h]
  rfl

/-- Settles O6: the function byte, the length and the CRC are checked in this order, and a fitting frame is stored whole. -/
theorem decoderReportsFirstFailure : Obligations.DecoderReportsFirstFailure := by
  intro bytes
  refine ⟨fun hshort => decodeRequest_result_of_short hshort, fun hlen => ⟨fun hunknown => ?_, fun hknown => ?_⟩⟩
  · rw [← frameByte_frameOf_one] at hunknown
    exact decodeRequest_result_of_unknown hlen hunknown
  · rw [← frameByte_frameOf_one] at hknown
    obtain ⟨n, hn⟩ := exists_requiredLength hknown
    have hresult := decodeRequest_result_of_known hlen hn
    have hfits : Machine.LengthFits bytes ↔ (frameOf bytes).len = n := by
      rw [lengthFits_iff, hn, Option.some.injEq, eq_comm, frameOf_len]
    constructor
    · intro hwrong
      rw [hresult, if_neg (mt hfits.mpr hwrong)]
    · intro hright
      obtain rfl : bytes.length = n := hfits.mp hright
      rw [hresult, if_pos (frameOf_len bytes), crcResult_frameOf (requiredLength_lt_accDepth hn).le]

/-- Settles O7: every length that a known code fixes is below `ACC_DEPTH`. -/
theorem overlongFrameOutcome : Obligations.OverlongFrameOutcome := by
  intro f hover
  have hlen : 2 ≤ f.len := le_trans (by decide) hover.le
  constructor
  · intro hknown
    obtain ⟨n, hn⟩ := exists_requiredLength hknown
    have hne : f.len ≠ n := ((requiredLength_lt_accDepth hn).trans hover).ne'
    rw [decodeRequest_result_of_known hlen hn, if_neg hne]
  · exact fun hunknown => decodeRequest_result_of_unknown hlen hunknown

/-! ## Words of the spec (95_test_vectors.md) -/

/-- A frame that is written out as the code of a well-formed operation decodes to that operation. -/
theorem decode_frame_of_encode {i : Instr} {bytes : List Byte} (hwf : i.wf = true) (h : encode i = .frame bytes) :
    decode (.frame bytes) = .instr i :=
  h ▸ decodeOfEncodeIsTheInstruction i hwf

theorem decode_frame_of_damaged {bytes : List Byte} (h : (decodeRequest (frameOf bytes)).result = .damaged) :
    decode (.frame bytes) = .damaged := by
  rw [decode, decodedOf, h]

theorem decode_frame_of_crcMismatch {bytes : List Byte}
    (h : (decodeRequest (frameOf bytes)).result = .crcMismatch) : decode (.frame bytes) = .crcMismatch := by
  rw [decode, decodedOf, h]

/-- Settles O3: D1 to D3 are what the encoder writes, D4 has the length but not the CRC of a read, D8 counts one data byte and
carries two, and D10 stops at its function code. -/
theorem decodeOfSpecWords : Obligations.DecodeOfSpecWords := by
  refine ⟨decode_frame_of_encode rfl (by decide +kernel), decode_frame_of_encode rfl (by decide +kernel),
    decode_frame_of_encode rfl (by decide +kernel), decode_frame_of_crcMismatch ?_, decode_frame_of_damaged ?_,
    decode_illegalFn [] rfl, rfl, rfl⟩
  · have hlength : requiredLength (frameOf [0x01, 0x01, 0x00, 0x00, 0x00, 0x08, 0x3D, 0xCD]) = some 8 := rfl
    obtain ⟨-, hcrc, -⟩ := crcOfSpecVectors
    have hwrong : crc16 [0x01, 0x01, 0x00, 0x00, 0x00, 0x08] ≠ be16 0xCD 0x3D := by
      rw [hcrc]
      decide
    exact (decodeRequest_result_of_known (by decide) hlength).trans ((if_pos rfl).trans (if_neg hwrong))
  · have hlength : requiredLength (frameOf [0x01, 0x0F, 0x00, 0x00, 0x00, 0x02, 0x01, 0x03, 0x00, 0x17, 0xA8]) = some 10 :=
      rfl
    exact (decodeRequest_result_of_known (by decide) hlength).trans (if_neg (by decide))

end Sys2Proof
end

section
/-! SUPPORT. The dispatcher (42_dispatch.md): how the turn of a frame that reaches it ends, and the obligations on requests that are not
addressed, have no handler, or are broadcast. -/

namespace Sys2Proof.Machine

/-! ## Where an access leads -/

/-- A function unit whose accesses go on to the next one, or straight to step 4 with an exception (R69, R309). -/
def HandlerUnit.Advances (u : HandlerUnit) : Prop :=
  ∀ i buf s, i < u.count → (u.access i buf s).pos = .finish ∨ ∃ buf', (u.access i buf s).pos = .access (i + 1) buf'

theorem noUnit_advances : noUnit.Advances := fun _ _ _ hi => absurd hi (Nat.not_lt_zero _)

theorem readBits_advances (k : BankId) (addr qty : Word) : (readBits k addr qty).Advances :=
  fun _ _ _ _ => .inr ⟨_, rfl⟩

theorem readWords_advances (k : BankId) (addr qty : Word) : (readWords k addr qty).Advances :=
  fun _ _ _ _ => .inr ⟨_, rfl⟩

theorem writeSingle_advances (k : BankId) (addr arg value : Word) : (writeSingle k addr arg value).Advances := by
  intro i buf s _
  simp only [writeSingle]
  split
  · exact .inr ⟨_, rfl⟩
  · exact .inl rfl

theorem writeMultiple_advances (k : BankId) (addr qty : Word) (check : Cfg → Option Byte) (n : Nat)
    (value : Nat → Word) : (writeMultiple k addr qty check n value).Advances :=
  fun _ _ _ _ => .inr ⟨_, rfl⟩

/-- A wire request is handled by a unit that keeps what a stage of a frame keeps, and whose accesses go forward (R110, R168). -/
theorem exec_of_wireRequest_unit {i : Instr} {id func : Byte} (h : WireRequest i id func) :
    ∃ u : HandlerUnit, u.Keeps ∧ u.Advances ∧ ∀ s, exec i s = .next (process id func false u s) := by
  rcases h with ⟨a, q, rfl, rfl⟩ | ⟨a, q, rfl, rfl⟩ | ⟨a, q, rfl, rfl⟩ | ⟨a, q, rfl, rfl⟩ | ⟨a, v, rfl, rfl⟩ |
    ⟨a, v, rfl, rfl⟩ | ⟨a, q, d, rfl, rfl⟩ | ⟨a, q, d, rfl, rfl⟩ | rfl
  · exact ⟨_, readBits_keeps _ _ _, readBits_advances _ _ _, fun _ => rfl⟩
  · exact ⟨_, readBits_keeps _ _ _, readBits_advances _ _ _, fun _ => rfl⟩
  · exact ⟨_, readWords_keeps _ _ _, readWords_advances _ _ _, fun _ => rfl⟩
  · exact ⟨_, readWords_keeps _ _ _, readWords_advances _ _ _, fun _ => rfl⟩
  · exact ⟨_, writeSingle_keeps _ _ _ _, writeSingle_advances _ _ _ _, fun _ => rfl⟩
  · exact ⟨_, writeSingle_keeps _ _ _ _, writeSingle_advances _ _ _ _, fun _ => rfl⟩
  · exact ⟨_, writeMultiple_keeps _ _ _ _ _ _, writeMultiple_advances _ _ _ _ _ _, fun _ => rfl⟩
  · exact ⟨_, writeMultiple_keeps _ _ _ _ _ _, writeMultiple_advances _ _ _ _ _ _, fun _ => rfl⟩
  · exact ⟨_, noUnit_keeps, noUnit_advances, fun _ => rfl⟩

/-! ## Frames that the dispatcher drops or refuses -/

/-- The address filter (R162): the frame goes straight to the encoder. -/
theorem dispatchStart_unaddressed {id : Byte} {s : State} (func : Byte) (pf : Bool) (u : HandlerUnit)
    (h : ¬ Addressed s.cfg id) :
    dispatchStart id func pf u s = suppress .unaddressed (scaffold id func s) := by
  have hid : addressed s.cfg id = false := Bool.eq_false_iff.mpr (mt (addressed_iff s.cfg id).mp h)
  simp [dispatchStart, hid]

/-- An addressed frame that the decoder rejected (R163). -/
theorem dispatchStart_parseFailed {id : Byte} {s : State} (func : Byte) (u : HandlerUnit) (h : Addressed s.cfg id) :
    dispatchStart id func true u s = suppress .parseFailed (scaffold id func s) := by
  simp [dispatchStart, (addressed_iff s.cfg id).mpr h]

/-- An addressed request without a handler (R164, R165). -/
theorem dispatchStart_absent {id func : Byte} {s : State} (u : HandlerUnit) (h : Addressed s.cfg id)
    (hf : ¬ Enabled s.cfg func) :
    dispatchStart id func false u s = raise errorFunction (scaffold id func s) := by
  have hfunc : present s.cfg func = false := Bool.eq_false_iff.mpr (mt (present_iff s.cfg func).mp hf)
  simp [dispatchStart, (addressed_iff s.cfg id).mpr h, hfunc]

/-- Settles O10: the address filter suppresses the frame, and the encoder drops what is suppressed. -/
theorem unaddressedRequestIsIgnored : Obligations.UnaddressedRequestIsIgnored := by
  intro i id func s hi hready hself hbroadcast
  obtain ⟨u, -, -, hexec⟩ := exec_of_wireRequest_unit hi
  have hstart := dispatchStart_unaddressed func false u (s := s) (not_or.mpr ⟨hself, hbroadcast⟩)
  have hkeeps := (scaffold_keeps id func s).trans (suppress_keeps .unaddressed (scaffold id func s))
  have hend : process id func false u s = endProcess (suppress .unaddressed (scaffold id func s)) := by
    rw [process_ready _ _ _ _ _ hready, hstart]
    exact advance_encode _ _ _ _ _ _ (by omega) hready.1 rfl
  obtain ⟨hdropped, hframe, hbanks, hqueue, hfault, hout, hresp⟩ :=
    endProcess_dropped s _ .notAnswer (getAdu_unanswered _ rfl) hkeeps
  refine ⟨_, (hexec s).trans (congrArg _ hend), hdropped, hout, ?_, hframe, hbanks, hqueue, ?_⟩
  · rw [hresp]
    rfl
  · rw [hfault]
    rfl

/-- The reply to a request that has just raised an exception is the exception response (R99, R226). -/
theorem getAdu_raise {id func code : Byte} (hc : code ≠ 0) (s : State) :
    getAdu (raise code (scaffold id func s)).resp = .bytes (withCrc (exceptionBody id func code)) := by
  rw [getAdu_exception _ rfl (by simp)]
  exact if_neg hc

/-- Settles O12: the dispatcher raises exception 1 at once, and step 4 and the encoder end the frame. -/
theorem absentHandlerAnswersException1 : Obligations.AbsentHandlerAnswersException1 := by
  intro i id func s hi hready hself hfunc
  obtain ⟨u, -, -, hexec⟩ := exec_of_wireRequest_unit hi
  have hkeeps := (scaffold_keeps id func s).trans (raise_keeps errorFunction (scaffold id func s))
  have hend : process id func false u s =
      endProcess (dispatchFinish id (raise errorFunction (scaffold id func s))) := by
    rw [process_ready _ _ _ _ _ hready, dispatchStart_absent u hself hfunc]
    exact advance_finish _ _ _ _ _ _ (by omega) hready.1 rfl
  obtain ⟨hconcluded, hframe, hbanks, hqueue, hfault, unanswered, hresp⟩ :=
    finish_concluded s _ id (exceptionBody id func 1) hkeeps
      (fun _ => getAdu_raise (code := errorFunction) (by decide) s)
  refine ⟨_, (hexec s).trans (congrArg _ hend), ⟨hconcluded, ?_, ?_⟩, hframe, hbanks, hqueue, ?_⟩
  · rw [hresp]
    rfl
  · rw [hresp]
    rfl
  · rw [hfault]
    rfl

/-! ## Every handled frame reaches step 4 -/

/-- From access number `i` on, a turn with a step for each access left and three more goes through step 4 to the end, whether the
accesses run out or one of them raises an exception. -/
theorem advance_access {id func : Byte} {pf : Bool} {u : HandlerUnit} (hu : u.Keeps) (hadv : u.Advances) (left : Nat)
    (i : Nat) (buf : List Byte) (s : State) (hs : s.frState = .process) (hp : s.pos = .access i buf)
    (hleft : u.count ≤ i + left) :
    ∃ t, HandlingKeeps s t ∧ advance (internalStep id func pf u) (left + 3) s = endProcess (dispatchFinish id t) := by
  by_cases hi : i < u.count
  · obtain ⟨left, rfl⟩ : ∃ n, left = n + 1 := Nat.exists_eq_add_of_le' (by omega)
    have hkeeps := (hu.access i buf s).toHandlingKeeps
    have hprocess := hkeeps.frState.trans hs
    rw [Nat.add_right_comm, advance_process _ _ _ hs, internalStep_access _ _ _ _ _ _ _ hp hi]
    rcases hadv i buf s hi with hfinish | ⟨buf', hnext⟩
    · exact ⟨_, hkeeps, advance_finish _ _ _ _ _ _ (by omega) hprocess hfinish⟩
    · obtain ⟨t, ht, e⟩ := advance_access hu hadv left (i + 1) buf' _ hprocess hnext (by omega)
      exact ⟨t, hkeeps.trans ht, e⟩
  · have hdone := (hu.done buf s).toHandlingKeeps
    exact ⟨_, hdone.trans (setPos_keeps .finish _),
      advance_done _ _ _ _ _ _ _ _ (by omega) hs hp (by omega) (hdone.frState.trans hs)⟩
  termination_by left

/-- An addressed request that is ready goes through step 4 to its end, with or without a handler (R164, R166). -/
theorem process_addressed {id func : Byte} {u : HandlerUnit} (hu : u.Keeps) (hadv : u.Advances) {s : State}
    (hready : Ready s) (h : Addressed s.cfg id) :
    ∃ t, HandlingKeeps s t ∧ process id func false u s = endProcess (dispatchFinish id t) := by
  have hstart := dispatchStart_stageKeeps id func false u s
  have hid := (addressed_iff s.cfg id).mpr h
  have raised (code : Byte) (e : dispatchStart id func false u s = raise code (scaffold id func s)) :
      ∃ t, HandlingKeeps s t ∧ process id func false u s = endProcess (dispatchFinish id t) := by
    refine ⟨_, hstart.toHandlingKeeps, ?_⟩
    rw [process_ready _ _ _ _ _ hready, e]
    exact advance_finish _ _ _ _ _ _ (by omega) hready.1 rfl
  rcases dispatchStart_cases id func false u s with
    ⟨hno, _⟩ | ⟨_, hpf, _⟩ | ⟨_, _, _, e⟩ | ⟨_, _, _, code, _, e⟩ | ⟨_, _, _, _, e⟩
  · exact absurd (hno.symm.trans hid) Bool.false_ne_true
  · cases hpf
  · exact raised errorFunction e
  · exact raised code e
  · obtain ⟨t, ht, hend⟩ := advance_access (id := id) (func := func) (pf := false) hu hadv u.count 0 u.init _
      (hstart.frState.trans hready.1) (by rw [e]; rfl) (by omega)
    exact ⟨t, hstart.toHandlingKeeps.trans ht, (process_ready _ _ _ _ _ hready).trans hend⟩

/-- Settles O13: whatever the handler did, step 4 sets `unanswered` on a broadcast before the encoder looks. -/
theorem broadcastIsNeverAnswered : Obligations.BroadcastIsNeverAnswered := by
  intro i func s hi hready
  obtain ⟨u, hu, hadv, hexec⟩ := exec_of_wireRequest_unit hi
  obtain ⟨t, ht, hend⟩ := process_addressed (func := func) hu hadv hready (.inr rfl)
  obtain ⟨hconcluded, hframe, -⟩ := finish_concluded s t 255 [] ht (fun h => absurd rfl h)
  obtain ⟨hdropped, hout, hunanswered⟩ := hconcluded.1 rfl
  exact ⟨_, (hexec s).trans (congrArg _ hend), hdropped, hout, hunanswered, hframe⟩

end Sys2Proof.Machine
end

section
/-! SUPPORT. Frames that the decoder rejects (R163): what a turn of any number of internal steps makes of one, and the obligation on
them. -/

namespace Sys2Proof.Machine

/-- The two failures of the decoder are no instruction (R163). -/
theorem decodedOf_of_rejectedBytes {f : Frame} (h : RejectedBytes f) :
    decodedOf (decodeRequest f) = .damaged ∨ decodedOf (decodeRequest f) = .crcMismatch := by
  rcases h with h | h
  · exact .inl (by simp only [decodedOf, h])
  · exact .inr (by simp only [decodedOf, h])

/-- The engine's turn on a rejected frame: the decode step, if it has not been done, then the dispatcher's (R163, R250). -/
theorem runEngine_rejected {s : State} (q : Option Nat) (hs : s.frState = .process) (h : RejectedBytes s.frame) :
    runEngine q s = .next (rejectFrame (decodeStage (s.setQuantum q))) := by
  rcases decodedOf_of_rejectedBytes h with e | e <;> simp only [runEngine, engineTurn, hs, e]

/-- A rejected frame needs one more internal step at least. -/
theorem stepsLeft_pos {s : State} (h : Rejected s) : 0 < stepsLeft s.pos := by
  obtain ⟨-, hp | ⟨-, hp | ⟨hp, -⟩⟩⟩ := h <;> simp [hp, stepsLeft]

/-- An unlimited turn has steps enough for every position (R252). -/
theorem stepsLeft_le_four (p : Pos) : stepsLeft p ≤ 4 := by
  cases p <;> simp [stepsLeft]

/-- The outcome of a rejected frame is that of the address filter, else that of the parse check (R162, R163, R306). -/
theorem dispatchStart_rejected (id func : Byte) (u : HandlerUnit) (s : State) :
    ∃ out, RejectedOutcome s.cfg id out ∧ dispatchStart id func true u s = suppress out (scaffold id func s) := by
  by_cases h : Addressed s.cfg id
  · exact ⟨.parseFailed, ⟨fun _ => rfl, fun hn => absurd h hn⟩, dispatchStart_parseFailed func u h⟩
  · exact ⟨.unaddressed, ⟨fun ha => absurd ha h, fun _ => rfl⟩, dispatchStart_unaddressed func true u h⟩

/-- What `n` internal steps make of a rejected frame: too few leave it in `PROCESS`, so many fewer to go; enough drop it. -/
structure RejectedTurn (s t : State) (n : Nat) : Prop where
  frameKeeps : FrameKeeps s t
  banks : t.banks = s.banks
  queue : QueueKeeps s t
  cut : n < stepsLeft s.pos → HandlingKeeps s t ∧ Rejected t ∧ stepsLeft t.pos = stepsLeft s.pos - n
  ended : stepsLeft s.pos ≤ n →
    t.resp.unanswered = true ∧ RejectedOutcome s.cfg s.req.id t.dispOut ∧ Dropped s t

/-- A turn of no internal step. -/
theorem rejectedTurn_zero {s : State} (h : Rejected s) : RejectedTurn s s 0 where
  frameKeeps := .refl s
  banks := rfl
  queue := ⟨rfl, rfl⟩
  cut _ := ⟨.refl s, h, rfl⟩
  ended hn := absurd (stepsLeft_pos h) (Nat.not_lt.mpr hn)

/-- One internal step that leaves the frame in `PROCESS`, and a turn of `n` more. -/
theorem RejectedTurn.cons {s t u : State} {n : Nat} (hkeeps : HandlingKeeps s t) (hbanks : t.banks = s.banks)
    (hqueue : QueueKeeps s t) (hleft : stepsLeft s.pos = stepsLeft t.pos + 1) (h : RejectedTurn t u n) :
    RejectedTurn s u (n + 1) where
  frameKeeps := hkeeps.toFrameKeeps.trans h.frameKeeps
  banks := h.banks.trans hbanks
  queue := ⟨h.queue.1.trans hqueue.1, h.queue.2.trans hqueue.2⟩
  cut hn := by
    obtain ⟨hcut, hrejected, hrest⟩ := h.cut (by omega)
    exact ⟨hkeeps.trans hcut, hrejected, by omega⟩
  ended hn := by
    obtain ⟨hunanswered, hout, hdropped⟩ := h.ended (by omega)
    rw [hkeeps.cfg, hkeeps.req] at hout
    refine ⟨hunanswered, hout, ?_⟩
    unfold Dropped at hdropped ⊢
    rwa [hkeeps.txBuf, hkeeps.txPtr, hkeeps.final, hkeeps.acc, hkeeps.idleUs, hkeeps.rxFifo] at hdropped

/-- The last internal step of a suppressed frame, and any number of further ones (R251). -/
theorem advance_rejected_encode {s : State} (u : HandlerUnit) (n : Nat) (hs : s.frState = .process) (hp : s.pos = .encode)
    (hunanswered : s.resp.unanswered = true) (hout : RejectedOutcome s.cfg s.req.id s.dispOut) :
    RejectedTurn s (advance (internalStep s.req.id s.req.func true u) (n + 1) s) (n + 1) := by
  rw [advance_encode _ _ _ _ _ _ (by omega) hs hp]
  obtain ⟨hdropped, hframe, hbanks, hqueue, hfault, hdispOut, hresp⟩ :=
    endProcess_dropped s s .notAnswer (getAdu_unanswered _ hunanswered) (.refl s)
  exact
    { frameKeeps := hframe
      banks := hbanks
      queue := ⟨hqueue, by rw [hfault]⟩
      cut := fun hn => by simp [hp, stepsLeft] at hn
      ended := fun _ => ⟨by rw [hresp, hunanswered], by rw [hdispOut]; exact hout, hdropped⟩ }

/-- Any number of internal steps of a rejected frame whose decode step is done. -/
theorem advance_rejected {s : State} (u : HandlerUnit) (n : Nat) (hs : s.frState = .process) (hp : s.pos ≠ .decode)
    (h : Rejected s) : RejectedTurn s (advance (internalStep s.req.id s.req.func true u) n s) n := by
  cases n with
  | zero => exact rejectedTurn_zero h
  | succ n =>
    obtain ⟨hbytes, hdecode | ⟨hreq, hdispatch | ⟨hencode, hunanswered, hout⟩⟩⟩ := h
    · exact absurd hdecode hp
    · obtain ⟨out, hout, e⟩ := dispatchStart_rejected s.req.id s.req.func u s
      rw [advance_process _ _ _ hs, internalStep_dispatch _ _ _ _ _ hdispatch, e]
      have hkeeps := (scaffold_keeps s.req.id s.req.func s).trans (suppress_keeps out _)
      have hrejected : Rejected (suppress out (scaffold s.req.id s.req.func s)) :=
        ⟨hbytes, .inr ⟨hreq, .inr ⟨rfl, rfl, hout⟩⟩⟩
      refine .cons hkeeps rfl ⟨rfl, rfl⟩ (by simp [hdispatch, stepsLeft]) ?_
      cases n with
      | zero => exact rejectedTurn_zero hrejected
      | succ n => exact advance_rejected_encode u n hs rfl rfl hout
    · exact advance_rejected_encode u n hs hencode hunanswered hout

/-- The same of the engine's whole turn; one without a limit makes four internal steps at most. -/
theorem rejectFrame_turn {s : State} (hs : s.frState = .process) (hp : s.pos ≠ .decode) (h : Rejected s) :
    RejectedTurn s (rejectFrame s) (s.quantum.getD 4) :=
  advance_rejected noUnit _ hs hp h

/-- `s` as the engine's turn finds it once the decode step is done, and at position `p`. -/
def turnFrom (s : State) (rest : List Move) (q : Option Nat) (p : Pos) : State :=
  { s with sched := rest, quantum := q, req := decodeRequest s.frame, pos := p }

theorem decodeStage_of_decoded {s : State} (hp : s.pos ≠ .decode) : decodeStage s = s := by
  rcases decodeStage_cases s with ⟨_, e⟩ | ⟨hd, _, _⟩ | ⟨hd, _, _⟩ | ⟨_, hd, _, _⟩
  · exact e
  · exact absurd hd hp
  · exact absurd hd hp
  · exact absurd hd hp

/-- A turn of no internal step leaves a rejected frame as it is. -/
theorem rejectFrame_decodeStage_of_zero {s : State} (hq : s.quantum = some 0) : rejectFrame (decodeStage s) = s := by
  have hstay : decodeStage s = s := by
    rcases decodeStage_cases s with ⟨_, e⟩ | ⟨_, _, e⟩ | ⟨_, hnone, _⟩ | ⟨_, _, hsome, _⟩
    · exact e
    · exact e
    · simp [hq] at hnone
    · simp [hq] at hsome
  rw [hstay, rejectFrame, process, hq]
  rfl

/-- The decode step takes one step of a turn that begins with it, and none of another (R250, log entry 7). -/
theorem decodeStage_rejected {s : State} (rest : List Move) {q : Option Nat} (hq : q ≠ some 0) (h : Rejected s) :
    ∃ q' p d, decodeStage ({ s with sched := rest }.setQuantum q) = turnFrom s rest q' p ∧ p ≠ .decode ∧
      Rejected (turnFrom s rest q' p) ∧ stepsLeft s.pos = stepsLeft p + d ∧ q = q'.map (· + d) := by
  obtain ⟨hbytes, hdecode | ⟨hreq, hpos⟩⟩ := h
  · have hrejected (q' : Option Nat) : Rejected (turnFrom s rest q' .dispatch) := ⟨hbytes, .inr ⟨rfl, .inl rfl⟩⟩
    have hleft : stepsLeft s.pos = stepsLeft .dispatch + 1 := by rw [hdecode]; rfl
    rcases decodeStage_cases ({ s with sched := rest }.setQuantum q) with
      ⟨hne, _⟩ | ⟨_, hzero, _⟩ | ⟨_, hnone, e⟩ | ⟨n, _, hsome, e⟩
    · exact absurd hdecode hne
    · exact absurd hzero hq
    · obtain rfl : q = none := hnone
      exact ⟨none, .dispatch, 1, e, by simp, hrejected _, hleft, rfl⟩
    · obtain rfl : q = some (n + 1) := hsome
      exact ⟨some n, .dispatch, 1, e, by simp, hrejected _, hleft, rfl⟩
  · have hne : s.pos ≠ .decode := by rcases hpos with hp | ⟨hp, -⟩ <;> simp [hp]
    have hstay : { s with sched := rest }.setQuantum q = turnFrom s rest q s.pos := by
      unfold turnFrom
      rw [← hreq]
      rfl
    rw [hreq] at hpos
    have hskip := decodeStage_of_decoded (s := { s with sched := rest }.setQuantum q) hne
    exact ⟨q, s.pos, 0, hskip.trans hstay, hne, ⟨hbytes, .inr ⟨rfl, hpos⟩⟩, rfl, by simp⟩

/-- Settles O11: a turn of no step does nothing; any other one does the decode step first, where that is due, and is then a run of
internal steps. -/
theorem rejectedFrameIsNeverAnswered : Obligations.RejectedFrameIsNeverAnswered := by
  intro s q rest hr hsched hs h
  have hstep : step s = .next (rejectFrame (decodeStage ({ s with sched := rest }.setQuantum q))) :=
    (step_move s _ rest hr hsched).trans (runEngine_rejected (s := { s with sched := rest }) q hs h.1)
  rw [hstep]
  by_cases hq : q = some 0
  · subst hq
    rw [rejectFrame_decodeStage_of_zero rfl]
    refine ⟨_, rfl, rfl, ⟨rfl, rfl⟩, .refl _, fun _ => rfl, fun hne => absurd rfl hne, fun n hn _ => ?_, fun hlong => ?_⟩
    · cases hn
      exact ⟨hs, h, rfl, { ReceiverKeeps.refl s with }, rfl, rfl⟩
    · have hleft := stepsLeft_pos h
      simp at hlong
      omega
  · obtain ⟨q', p, d, hstart, hp, hrejected, hd, hsteps⟩ := decodeStage_rejected rest hq h
    rw [hstart]
    obtain ⟨hkeeps, hbanks, hqueue, hcut, hended⟩ := rejectFrame_turn (s := turnFrom s rest q' p) hs hp hrejected
    refine ⟨_, rfl, hbanks, hqueue, { hkeeps with quantum := rfl, req := rfl }, fun h0 => absurd h0 hq,
      fun _ => hkeeps.req, fun n hn hlt => ?_, fun hlong => ?_⟩
    · obtain ⟨m, rfl, rfl⟩ : ∃ m, q' = some m ∧ m + d = n := Option.map_eq_some_iff.mp (hsteps.symm.trans hn)
      obtain ⟨hhandling, hstill, hleft⟩ := hcut (show m < stepsLeft p by omega)
      refine ⟨hhandling.frState.trans hs, hstill, ?_, { hhandling with }, hhandling.txBuf, hhandling.txPtr⟩
      rw [hleft, hd, Nat.add_sub_add_right]
      rfl
    · have henough : stepsLeft p ≤ q'.getD 4 := by
        cases q' with
        | none => exact stepsLeft_le_four p
        | some m =>
          obtain ⟨n, hn, hle⟩ : ∃ n, q = some n ∧ stepsLeft s.pos ≤ n := hlong.resolve_left (by simp [hsteps])
          obtain rfl : m + d = n := Option.some.inj (hsteps.symm.trans hn)
          exact Nat.le_of_add_le_add_right (hd ▸ hle)
      rw [hkeeps.req]
      exact hended henough

end Sys2Proof.Machine
end

section
/-! SUPPORT. The reply discipline (R162, R166, R169): every move keeps it, and the obligation on `step`. -/

namespace Sys2Proof.Machine

variable {s t : State}

/-! ## States that meet the reply discipline -/

/-- No frame is in work, or its decode step is still to come. -/
def Unhandled (s : State) : Prop := (s.frState = .process → s.pos = .decode) ∧ s.frState ≠ .transmit

theorem Unhandled.replyInv (h : Unhandled s) : ReplyInv s := by
  obtain ⟨hdecode, htransmit⟩ := h
  exact
    { rejected := fun hs hbytes => ⟨hbytes, .inl (hdecode hs)⟩
      handling := fun i buf hs hp => by simp [hdecode hs] at hp
      finishing := fun hs hp => by simp [hdecode hs] at hp
      encoding := fun hs hp => by simp [hdecode hs] at hp
      transmitting := fun hs => absurd hs htransmit }

theorem unhandled_of_receive (h : s.frState = .receive) : Unhandled s := by simp [Unhandled, h]

theorem unhandled_of_settle (h : s.frState = .settle) : Unhandled s := by simp [Unhandled, h]

theorem unhandled_of_halted (h : s.frState = .halted) : Unhandled s := by simp [Unhandled, h]

theorem unhandled_of_decode (hs : s.frState = .process) (hp : s.pos = .decode) : Unhandled s := by
  simp [Unhandled, hs, hp]

/-- The positions at which a handler runs or has run: its accesses, its builder call, and step 4. -/
def InHandler (p : Pos) : Prop := p = .finish ∨ ∃ i buf, p = .access i buf

/-- A handler at work on an addressed frame that the decoder has accepted (R162, R163). -/
theorem replyInv_of_inHandler (hs : s.frState = .process) (hp : InHandler s.pos) (ha : Addressed s.cfg s.req.id)
    (hbytes : ¬ RejectedBytes s.frame) : ReplyInv s where
  rejected _ hr := absurd hr hbytes
  handling _ _ _ _ := ha
  finishing _ _ := ha
  encoding _ hencode := by rcases hp with hp | ⟨i, buf, hp⟩ <;> simp [hp] at hencode
  transmitting ht := by simp [hs] at ht

/-- The encoder's turn on a frame that it may answer only if the frame is the block's own and no broadcast. -/
theorem replyInv_of_encode (hs : s.frState = .process) (hp : s.pos = .encode)
    (hr : RejectedBytes s.frame → Rejected s)
    (hleave : s.resp.unanswered = false → s.req.id = s.cfg.slaveId ∧ s.req.id ≠ 255) : ReplyInv s where
  rejected _ := hr
  handling _ _ _ hp' := by simp [hp] at hp'
  finishing _ hp' := by simp [hp] at hp'
  encoding _ _ := hleave
  transmitting ht := by simp [hs] at ht

/-- In work on a handler's part of the frame, the frame is addressed and not a rejected one. -/
theorem ReplyInv.inHandler (h : ReplyInv s) (hs : s.frState = .process) (hp : InHandler s.pos) :
    Addressed s.cfg s.req.id ∧ ¬ RejectedBytes s.frame := by
  refine ⟨?_, fun hbytes => ?_⟩
  · rcases hp with hp | ⟨i, buf, hp⟩
    · exact h.finishing hs hp
    · exact h.handling i buf hs hp
  · obtain ⟨-, hp' | ⟨-, hp' | ⟨hp', -⟩⟩⟩ := h.rejected hs hbytes <;>
      rcases hp with hp | ⟨i, buf, hp⟩ <;> simp [hp] at hp'

/-! ## The receiver -/

theorem overrun_replyInv (h : ReplyInv s) : ReplyInv (overrun s) := by
  rcases overrun_cases s with ⟨_, e⟩ | ⟨_, hhalted, _⟩ | ⟨_, _, e⟩
  · rw [e]
    exact h
  · exact (unhandled_of_halted hhalted).replyInv
  · rw [e]
    exact { h with }

theorem enqueue_replyInv (item : RxItem) (h : ReplyInv s) : ReplyInv (enqueue item s) := by
  rcases enqueue_cases item s with ⟨_, e⟩ | ⟨_, _, e⟩ | ⟨_, _, e⟩ <;> rw [e]
  · exact h
  · exact { h with }
  · exact overrun_replyInv h

theorem rxByte_replyInv (b : Byte) (h : ReplyInv s) : ReplyInv (rxByte b s) := by
  unfold rxByte
  split
  · exact h
  · exact enqueue_replyInv _ h

theorem rxError_replyInv (e : ErrVal) (h : ReplyInv s) : ReplyInv (rxError e s) := by
  unfold rxError
  split
  · exact h
  · exact enqueue_replyInv _ { h with }

/-! ## The engine in RECEIVE -/

/-- A frame that has just been taken waits for its decode step (R247). -/
theorem takeFrame_unhandled (s : State) : Unhandled (takeFrame s) := unhandled_of_decode rfl rfl

theorem countTick_unhandled (hs : s.frState = .receive) : Unhandled (countTick s) := by
  rcases countTick_cases s with ⟨_, e⟩ | ⟨_, _, e⟩ | ⟨_, _, e⟩ <;> rw [e]
  · exact unhandled_of_receive hs
  · exact unhandled_of_receive hs
  · exact takeFrame_unhandled _

theorem receiveStep_unhandled (hs : s.frState = .receive) : Unhandled (receiveStep s) := by
  rcases receiveStep_cases s with ⟨b, rest, _, e⟩ | ⟨err, rest, _, e⟩ | ⟨_, _, e⟩ | ⟨n, _, _, e⟩ <;> rw [e]
  · exact unhandled_of_receive hs
  · rcases popErr_cases err { s with rxFifo := rest } with ⟨_, he⟩ | ⟨_, he⟩ <;> rw [he]
    · exact takeFrame_unhandled _
    · exact unhandled_of_halted rfl
  · exact unhandled_of_receive hs
  · exact countTick_unhandled hs

/-! ## Ticks, the transmitter and the event consumer -/

/-- A frame that is over is in work no more (R251, R255). -/
theorem frameDone_unhandled (s : State) : Unhandled (frameDone s) := by
  unfold frameDone
  split
  · exact unhandled_of_halted rfl
  · exact unhandled_of_receive rfl

theorem usTick_replyInv (h : ReplyInv s) : ReplyInv (usTick s) := by
  rcases usTick_cases s with ⟨hs, _, _, e⟩ | ⟨_, _, e⟩ | ⟨hs, e⟩ | ⟨_, _, e⟩ <;> rw [e]
  · exact (countTick_unhandled hs).replyInv
  · exact { h with }
  · rcases settleTick_cases s with ⟨_, e⟩ | ⟨_, e⟩ <;> rw [e]
    · exact { h with }
    · exact (frameDone_unhandled _).replyInv
  · exact h

theorem txAccept_replyInv (h : ReplyInv s) : ReplyInv (txAccept s) := by
  rcases txAccept_cases s with ⟨_, e⟩ | ⟨b, _, _, e⟩ | ⟨b, _, _, e⟩ <;> rw [e]
  · exact h
  · exact (unhandled_of_settle rfl).replyInv
  · exact { h with }

theorem txError_replyInv (e : ErrVal) (h : ReplyInv s) : ReplyInv (txError e s) := by
  unfold txError
  cases s.frState with
  | transmit => exact (unhandled_of_halted rfl).replyInv
  | receive => exact h
  | process => exact h
  | settle => exact h
  | halted => exact h

theorem cbTake_replyInv (ev : CbEvent) (h : ReplyInv s) : ReplyInv (cbTake ev s) := by
  unfold cbTake
  split
  · exact { h with }
  · exact h

/-- Every input event of a running block (R44), the assertion of reset included. -/
theorem input_replyInv (m : Move) (h : ReplyInv s) : ReplyInv (input m s) := by
  cases m with
  | rxByte b => exact rxByte_replyInv b h
  | rxError e => exact rxError_replyInv e h
  | usTick => exact usTick_replyInv h
  | txAccept => exact txAccept_replyInv h
  | txError e => exact txError_replyInv e h
  | cbTake ev => exact cbTake_replyInv ev h
  | resetAssert => exact (unhandled_of_receive rfl).replyInv
  | cfgWrite => exact h
  | resetRelease => exact h
  | engine => exact h
  | hostReq => exact h

/-! ## Host requests -/

/-- A host request touches nothing that the reply discipline speaks of (R291). -/
theorem runHost_replyInv (agent : Nat) (op : BitVec 3) (addr value : Word) (h : ReplyInv s) :
    ∃ t, runHost agent op addr value s = .next t ∧ ReplyInv t := by
  rcases runHost_cases agent op addr value s with ⟨_, e⟩ | ⟨_, e⟩ <;> rw [e]
  · rcases execHost_cases op addr value with ⟨k, hk⟩ | ⟨k, hk⟩
    · obtain ⟨_, _, _, hget⟩ := hostGet_shape k addr s
      exact ⟨_, (hk s).trans (congrArg _ hget), { h with }⟩
    · obtain ⟨_, _, _, _, hset⟩ := hostSet_shape k addr value s
      exact ⟨_, (hk s).trans (congrArg _ hset), { h with }⟩
  · exact ⟨s, rfl, h⟩

/-! ## The internal steps of a frame -/

/-- The engine's part of the frame is the handler's still after an access: its next one, its builder call or step 4. -/
theorem HandlerUnit.Advances.inHandler {u : HandlerUnit} (hu : u.Advances) {i : Nat} (buf : List Byte) (s : State)
    (hi : i < u.count) : InHandler (u.access i buf s).pos :=
  (hu i buf s hi).imp_right (fun ⟨buf', hp⟩ => ⟨i + 1, buf', hp⟩)

/-- The dispatcher lets a handler see only an addressed frame that the decoder has accepted (R162, R163, R168). -/
theorem dispatchStart_replyInv {func : Byte} {pf : Bool} (u : HandlerUnit) (hpf : RejectedBytes s.frame ↔ pf = true)
    (hs : s.frState = .process) (hreq : s.req = decodeRequest s.frame) :
    ReplyInv (dispatchStart s.req.id func pf u s) := by
  cases pf with
  | true =>
    obtain ⟨out, hout, e⟩ := dispatchStart_rejected s.req.id func u s
    rw [e]
    exact replyInv_of_encode hs rfl (fun hbytes => ⟨hbytes, .inr ⟨hreq, .inr ⟨rfl, rfl, hout⟩⟩⟩)
      (fun hunanswered => absurd hunanswered (by simp))
  | false =>
    have hbytes : ¬ RejectedBytes s.frame := fun hr => Bool.false_ne_true (hpf.mp hr)
    rcases dispatchStart_cases s.req.id func false u s with
      ⟨_, e⟩ | ⟨_, hf, _⟩ | ⟨ha, _, _, e⟩ | ⟨ha, _, _, code, _, e⟩ | ⟨ha, _, _, _, e⟩
    · rw [e]
      exact replyInv_of_encode hs rfl (fun hr => absurd hr hbytes) (fun hunanswered => absurd hunanswered (by simp))
    · cases hf
    · rw [e]
      exact replyInv_of_inHandler hs (.inl rfl) ((addressed_iff _ _).mp ha) hbytes
    · rw [e]
      exact replyInv_of_inHandler hs (.inl rfl) ((addressed_iff _ _).mp ha) hbytes
    · rw [e]
      exact replyInv_of_inHandler hs (.inr ⟨0, u.init, rfl⟩) ((addressed_iff _ _).mp ha) hbytes

/-- A handler's step leaves the frame addressed and accepted. -/
theorem HandlingKeeps.replyInv_of_inHandler (hk : HandlingKeeps s t) (hs : s.frState = .process) (hp : InHandler s.pos)
    (hp' : InHandler t.pos) (h : ReplyInv s) : ReplyInv t := by
  obtain ⟨haddressed, hbytes⟩ := h.inHandler hs hp
  exact Machine.replyInv_of_inHandler (hk.frState.trans hs) hp' (by rwa [hk.cfg, hk.req]) (by rwa [hk.frame])

/-- Step 4 gives leave to answer an addressed frame that is no broadcast (R166). -/
theorem dispatchFinish_replyInv (hs : s.frState = .process) (hp : s.pos = .finish) (h : ReplyInv s) :
    ReplyInv (dispatchFinish s.req.id s) := by
  obtain ⟨haddressed, hbytes⟩ := h.inHandler hs (.inl hp)
  refine replyInv_of_encode (by simpa using hs) (by simp) (fun hr => absurd hr (by simpa using hbytes)) ?_
  simp only [dispatchFinish_resp, dispatchFinish_req, dispatchFinish_cfg, Bool.or_eq_false_iff, decide_eq_false_iff_not]
  rintro ⟨-, hne⟩
  exact ⟨haddressed.resolve_right hne, hne⟩

theorem decodeRd_id (f : Frame) (r : Request) : (decodeRd f r).id = r.id := by
  unfold decodeRd
  split <;> rfl

theorem decodeWs_id (f : Frame) (r : Request) : (decodeWs f r).id = r.id := by
  unfold decodeWs
  split <;> rfl

theorem decodeWm_id (f : Frame) (r : Request) : (decodeWm f r).id = r.id := by
  unfold decodeWm
  split
  · rfl
  · dsimp only
    split <;> rfl

/-- The decoder reads the id from byte 0, whatever else it finds (R140). -/
theorem decodeRequest_id {f : Frame} (h : 0 < f.len) : (decodeRequest f).id = frameByte f 0 := by
  by_cases hshort : f.len < 2
  · rw [decodeRequest, if_pos hshort]
    exact if_pos (by omega)
  · have hlen : 2 ≤ f.len := by omega
    cases hf : formatOf (frameByte f 1) with
    | rd => rw [decodeRequest_of_rd hlen hf, decodeRd_id, requestHeader]
    | ws => rw [decodeRequest_of_ws hlen hf, decodeWs_id, requestHeader]
    | wm => rw [decodeRequest_of_wm hlen hf, decodeWm_id, requestHeader]
    | unknown => rw [decodeRequest_of_unknown hlen hf, requestHeader]

/-- The first byte of a taken frame that is not empty (R247). -/
theorem frameWf.head?_bytes {f : Frame} (hf : frameWf f) (h : 0 < f.len) : f.bytes.head? = some (frameByte f 0) := by
  obtain ⟨hlen, -⟩ := hf
  cases hb : f.bytes with
  | nil => simp [hb, Config.accDepth] at hlen; omega
  | cons b rest => simp [frameByte, hb]

/-- The encoder answers only with the leave of step 4 (R251). -/
theorem endProcess_replyInv (hs : s.frState = .process) (hp : s.pos = .encode) (hlive : Live s) (h : ReplyInv s) :
    ReplyInv (endProcess s) := by
  unfold endProcess
  cases hg : getAdu s.resp with
  | fail => exact (frameDone_unhandled s).replyInv
  | bytes adu =>
    have hunanswered : s.resp.unanswered = false := by
      by_contra hne
      rw [getAdu_unanswered _ (by simpa using hne)] at hg
      cases hg
    have hreq := hlive.decoded (.inl ⟨hs, by simp [hp]⟩)
    obtain ⟨hown, hne⟩ := h.encoding hs hp hunanswered
    have hlen := hlive.frameNonempty (.inl hs)
    have hfirst := hlive.frame.head?_bytes hlen
    rw [← decodeRequest_id hlen, ← hreq, hown] at hfirst
    exact
      { rejected := by simp
        handling := by simp
        finishing := by simp
        encoding := by simp
        transmitting := fun _ => ⟨hown, hne, hfirst⟩ }

/-- One internal step of a frame that is decoded, as its own id and the decoder's result have it (R252). -/
theorem internalStep_replyInv {func : Byte} {pf : Bool} {u : HandlerUnit} (hu : u.Keeps) (hadv : u.Advances)
    (hpf : RejectedBytes s.frame ↔ pf = true) (hs : s.frState = .process) (hdec : s.pos ≠ .decode) (hlive : Live s)
    (h : ReplyInv s) : ReplyInv (internalStep s.req.id func pf u s) := by
  cases hp : s.pos with
  | decode => exact absurd hp hdec
  | dispatch =>
    rw [internalStep_dispatch _ _ _ _ _ hp]
    exact dispatchStart_replyInv u hpf hs (hlive.decoded (.inl ⟨hs, hdec⟩))
  | access i buf =>
    have hin : InHandler s.pos := .inr ⟨i, buf, hp⟩
    by_cases hi : i < u.count
    · rw [internalStep_access _ _ _ _ _ _ _ hp hi]
      exact (hu.access i buf s).replyInv_of_inHandler hs hin (hadv.inHandler buf s hi) h
    · rw [internalStep_done _ _ _ _ _ _ _ hp (by omega)]
      exact ((hu.done buf s).trans (setPos_stageKeeps .finish (by simp) _)).replyInv_of_inHandler hs hin (.inl rfl) h
  | finish =>
    rw [internalStep_finish _ _ _ _ _ hp]
    exact dispatchFinish_replyInv hs hp h
  | encode =>
    rw [internalStep_encode _ _ _ _ _ hp]
    exact endProcess_replyInv hs hp hlive h

/-- No internal step writes `REQ` or `FRAME` (R150, R250). -/
theorem internalStep_coreKeeps (id func : Byte) (pf : Bool) {u : HandlerUnit} (hu : u.Keeps) (s : State) :
    CoreKeeps s (internalStep id func pf u s) := by
  by_cases hp : s.pos = .encode
  · rw [internalStep_encode _ _ _ _ _ hp]
    rcases endProcess_cases s with ⟨_, _, e⟩ | ⟨_, _, _, e⟩ | ⟨_, _, _, e⟩ <;> rw [e]
    · constructor <;> rfl
    · constructor <;> simp
    · constructor <;> rfl
  · exact (internalStep_stageKeeps id func pf u hu s hp).toCoreKeeps

/-- A turn of any length on a frame, where it is decoded or the turn has no internal step left. -/
theorem process_replyInv {id func : Byte} {pf : Bool} {u : HandlerUnit} (hu : u.Keeps) (hadv : u.Advances)
    (hpf : RejectedBytes s.frame ↔ pf = true) (hid : s.pos ≠ .decode → s.req.id = id)
    (hd : s.pos = .decode → s.quantum = some 0) (hlive : Live s) (h : ReplyInv s) :
    ReplyInv (process id func pf u s) := by
  unfold process
  by_cases hp : s.pos = .decode
  · rw [hd hp]
    exact h
  · obtain rfl := hid hp
    have hturn := advance_keeps (fun t => CoreKeeps s t ∧ LiveDecoded t ∧ ReplyInv t)
      (internalStep s.req.id func pf u) (fun t ht ⟨hcore, hdec, hreply⟩ => ?_) (s.quantum.getD (u.count + 4)) s
      ⟨.refl s, ⟨hlive, fun _ => hp⟩, h⟩
    · obtain ⟨-, -, hreply⟩ := hturn
      exact hreply
    · obtain ⟨hliveT, hdecT⟩ := hdec
      refine ⟨hcore.trans (internalStep_coreKeeps _ _ _ hu t),
        internalStep_liveDecoded _ func pf u hu t ht ⟨hliveT, hdecT⟩, ?_⟩
      rw [← hcore.req]
      exact internalStep_replyInv hu hadv (by rwa [hcore.frame]) ht (hdecT ht) hliveT hreply

/-! ## The engine's turn -/

/-- The operation of a parsed request carries its id (R110). -/
theorem requestInstr_wireRequest (r : Request) : ∃ func, WireRequest (requestInstr r) r.id func := by
  unfold requestInstr WireRequest
  split <;> simp

/-- A frame that decodes to an instruction is none that the decoder rejects, and its handling goes by the decoded id. -/
theorem exec_of_decodedOf {f : Frame} {i : Instr} (e : decodedOf (decodeRequest f) = .instr i) :
    ¬ RejectedBytes f ∧ ∃ func u, HandlerUnit.Keeps u ∧ u.Advances ∧
      ∀ s, exec i s = .next (process (decodeRequest f).id func false u s) := by
  have hrequest : ∃ func, WireRequest i (decodeRequest f).id func := by
    unfold decodedOf at e
    split at e
    · cases e
      exact requestInstr_wireRequest _
    · cases e
      exact ⟨(decodeRequest f).func, by simp [WireRequest]⟩
    · cases e
    · cases e
  obtain ⟨func, hi⟩ := hrequest
  refine ⟨fun hr => ?_, func, exec_of_wireRequest_unit hi⟩
  rcases decodedOf_of_rejectedBytes hr with hr | hr <;> rw [hr] at e <;> cases e

@[simp] theorem decodeStage_frame (s : State) : (decodeStage s).frame = s.frame := by
  rcases decodeStage_cases s with ⟨_, e⟩ | ⟨_, _, e⟩ | ⟨_, _, e⟩ | ⟨n, _, _, e⟩ <;> rw [e]

@[simp] theorem decodeStage_frState (s : State) : (decodeStage s).frState = s.frState := by
  rcases decodeStage_cases s with ⟨_, e⟩ | ⟨_, _, e⟩ | ⟨_, _, e⟩ | ⟨n, _, _, e⟩ <;> rw [e]

/-- The decode step brings a frame before the dispatcher (R250). -/
theorem decodeStage_replyInv (hs : s.frState = .process) (h : ReplyInv s) : ReplyInv (decodeStage s) := by
  have decoded (q : Option Nat) :
      ReplyInv { s with req := decodeRequest s.frame, pos := .dispatch, quantum := q } :=
    { rejected := fun _ hbytes => ⟨hbytes, .inr ⟨rfl, .inl rfl⟩⟩
      handling := by simp
      finishing := by simp
      encoding := by simp
      transmitting := by simp [hs] }
  rcases decodeStage_cases s with ⟨_, e⟩ | ⟨_, _, e⟩ | ⟨_, _, e⟩ | ⟨n, _, _, e⟩ <;> rw [e]
  · exact h
  · exact h
  · exact decoded s.quantum
  · exact decoded (some n)

/-- A frame that the decoder does not reject is an instruction (R163). -/
theorem rejectedBytes_or_instr (f : Frame) : RejectedBytes f ∨ ∃ i, decodedOf (decodeRequest f) = .instr i := by
  unfold RejectedBytes decodedOf
  cases (decodeRequest f).result <;> simp

/-- The engine's turn on a frame that decodes to an instruction (R250). -/
theorem runEngine_instr {i : Instr} (q : Option Nat) (hs : s.frState = .process)
    (e : decodedOf (decodeRequest s.frame) = .instr i) : runEngine q s = exec i (decodeStage (s.setQuantum q)) := by
  simp only [runEngine, engineTurn, hs, e]

/-- The engine's turn in `PROCESS`. -/
theorem runEngine_process_replyInv (q : Option Nat) (hs : s.frState = .process) (hlive : Live s) (h : ReplyInv s) :
    ∃ t, runEngine q s = .next t ∧ ReplyInv t := by
  have hframe : (decodeStage (s.setQuantum q)).frame = s.frame := decodeStage_frame _
  have hstage := decodeStage_live (setQuantum_live q hlive)
  have hreply : ReplyInv (decodeStage (s.setQuantum q)) := decodeStage_replyInv hs { h with }
  rcases rejectedBytes_or_instr s.frame with hbytes | ⟨i, e⟩
  · refine ⟨_, runEngine_rejected q hs hbytes, ?_⟩
    exact process_replyInv noUnit_keeps noUnit_advances (by simpa [hframe] using hbytes) (fun _ => rfl)
      decodeStage_quantum hstage hreply
  · obtain ⟨hbytes, func, u, hu, hadv, hexec⟩ := exec_of_decodedOf e
    refine ⟨_, (runEngine_instr q hs e).trans (hexec _), ?_⟩
    refine process_replyInv hu hadv (by simpa [hframe] using hbytes) (fun hp => ?_) decodeStage_quantum hstage hreply
    rw [hstage.decoded (.inl ⟨(decodeStage_frState _).trans hs, hp⟩), hframe]

theorem runEngine_replyInv (q : Option Nat) (hlive : Live s) (h : ReplyInv s) :
    ∃ t, runEngine q s = .next t ∧ ReplyInv t := by
  cases hs : s.frState with
  | process => exact runEngine_process_replyInv q hs hlive h
  | receive => exact ⟨receiveStep s, by simp only [runEngine, engineTurn, hs], (receiveStep_unhandled hs).replyInv⟩
  | transmit => exact ⟨s, by simp only [runEngine, engineTurn, hs], h⟩
  | settle => exact ⟨s, by simp only [runEngine, engineTurn, hs], h⟩
  | halted => exact ⟨s, by simp only [runEngine, engineTurn, hs], h⟩

/-! ## Steps -/

theorem runMove_replyInv (m : Move) (hlive : Live s) (h : ReplyInv s) : ∃ t, runMove m s = .next t ∧ ReplyInv t := by
  cases m with
  | engine q => exact runEngine_replyInv q hlive h
  | hostReq agent op addr value => exact runHost_replyInv agent op addr value h
  | rxByte => exact ⟨_, rfl, input_replyInv _ h⟩
  | rxError => exact ⟨_, rfl, input_replyInv _ h⟩
  | usTick => exact ⟨_, rfl, input_replyInv _ h⟩
  | txAccept => exact ⟨_, rfl, input_replyInv _ h⟩
  | txError => exact ⟨_, rfl, input_replyInv _ h⟩
  | cbTake => exact ⟨_, rfl, input_replyInv _ h⟩
  | resetAssert => exact ⟨_, rfl, input_replyInv _ h⟩
  | cfgWrite => exact ⟨_, rfl, input_replyInv _ h⟩
  | resetRelease => exact ⟨_, rfl, input_replyInv _ h⟩

theorem step_replyInv_of_running (hlive : Live s) (h : ReplyInv s) : ∃ t, step s = .next t ∧ ReplyInv t := by
  cases hq : s.sched with
  | nil =>
    rw [step_idle s hlive.running hq]
    exact runEngine_replyInv none hlive h
  | cons m rest =>
    rw [step_move s m rest hlive.running hq]
    exact runMove_replyInv m (setSched_live rest hlive) { h with }

/-- All that a move can do while reset is asserted (R340). -/
theorem moveInReset_cases (m : Move) (s : State) (e : moveInReset m s = .next t) :
    t = s ∨ (∃ c, t = { s with cfg := c }) ∨ t = blockReset false s := by
  cases m with
  | cfgWrite c =>
    unfold moveInReset at e
    dsimp only at e
    split at e
    · cases e
      exact .inr (.inl ⟨c, rfl⟩)
    · cases e
  | resetRelease => cases e; exact .inr (.inr rfl)
  | engine => cases e; exact .inl rfl
  | rxByte => cases e; exact .inl rfl
  | rxError => cases e; exact .inl rfl
  | usTick => cases e; exact .inl rfl
  | txAccept => cases e; exact .inl rfl
  | txError => cases e; exact .inl rfl
  | hostReq => cases e; exact .inl rfl
  | cbTake => cases e; exact .inl rfl
  | resetAssert => cases e; exact .inl rfl

/-- While reset is asserted, and at its release, no frame is in work (R340, R341). -/
theorem step_unhandled_of_inReset (hr : s.inReset = true) (h : Inv s) (e : step s = .next t) : Unhandled t := by
  have hs : s.frState = .receive := by rw [h.resetValues hr]; rfl
  cases hq : s.sched with
  | nil =>
    have hstay : step s = .next s := by simp [step, hq, hr]
    cases hstay.symm.trans e
    exact unhandled_of_receive hs
  | cons m rest =>
    rw [step_reset s m rest hr hq] at e
    rcases moveInReset_cases m _ e with rfl | ⟨c, rfl⟩ | rfl
    · exact unhandled_of_receive hs
    · exact unhandled_of_receive hs
    · exact unhandled_of_receive rfl

/-- Settles O54: under reset no frame is in work, else move by move. -/
theorem stepKeepsReplyDiscipline : Obligations.StepKeepsReplyDiscipline := by
  intro s t hinv h e
  cases hr : s.inReset with
  | true => exact (step_unhandled_of_inReset hr hinv e).replyInv
  | false =>
    obtain ⟨u, hu, hreply⟩ := step_replyInv_of_running { hinv with running := hr } h
    cases hu.symm.trans e
    exact hreply

end Sys2Proof.Machine
end

section
/-! SUPPORT. The read function units (43_read_functions.md): how a handled read ends out of range, with quantity 0, and in range,
once for bit reads and word reads; and the two obligations on them. -/

namespace Sys2Proof.Machine

/-! ## Read units -/

/-- The data a unit has packed after its accesses, `pack` packing the value of access `i` as `v i` (R100, R101). -/
def HandlerUnit.packed (u : HandlerUnit) (pack : List Byte → Nat → Word → List Byte) (v : Nat → Word) : List Byte :=
  (List.range u.count).foldl (fun buf i => pack buf i (v i)) u.init

/-- A unit that reads `qty` cells of bank `k` from `addr` on and answers what `pack` makes of them (R181 to R184). -/
structure HandlerUnit.Reads (u : HandlerUnit) (k : BankId) (addr qty : Word)
    (pack : List Byte → Nat → Word → List Byte) : Prop where
  check : ∀ c, u.check c = if inRange c k addr qty then none else some errorAddress
  count : u.count = qty.toNat
  access : ∀ i buf s, u.access i buf s = (memRead k (addr.toNat + i) s).2.setPos
    (.access (i + 1) (pack buf i (memRead k (addr.toNat + i) s).1))
  done : ∀ buf s, u.done buf s = setRead buf s
  /-- No data is packed for quantity 0 only: what the encoder refuses to answer (R186). -/
  packed_eq_nil_iff : ∀ v, u.packed pack v = [] ↔ qty = 0

theorem readBits_packed_length (k : BankId) (addr qty : Word) (v : Nat → Word) :
    ((readBits k addr qty).packed packBit v).length = (qty.toNat + 7) / 8 :=
  (packBits_spec (ceil8 qty) v qty.toNat (by unfold ceil8; omega)).1

/-- The packed bits, least significant first, and zero padding up to the last byte (R100). -/
theorem readBits_packed_bit (k : BankId) (addr qty : Word) (v : Nat → Word) {j : Nat} (hj : j < 8 * ((qty.toNat + 7) / 8)) :
    (((readBits k addr qty).packed packBit v).getD (j / 8) 0).getLsbD (j % 8) =
      (decide (j < qty.toNat) && decide (v j ≠ 0)) :=
  (packBits_spec (ceil8 qty) v qty.toNat (by unfold ceil8; omega)).2 j hj

theorem readWords_packed (k : BankId) (addr qty : Word) (v : Nat → Word) :
    (readWords k addr qty).packed (fun buf _ => packWord buf) v = (List.range qty.toNat).flatMap (fun j => beBytes (v j)) :=
  packWords_spec v qty.toNat

theorem readBits_reads (k : BankId) (addr qty : Word) : (readBits k addr qty).Reads k addr qty packBit where
  check _ := rfl
  count := rfl
  access _ _ _ := rfl
  done _ _ := rfl
  packed_eq_nil_iff v := by
    rw [← List.length_eq_zero_iff, readBits_packed_length]
    bv_omega

theorem readWords_reads (k : BankId) (addr qty : Word) :
    (readWords k addr qty).Reads k addr qty (fun buf _ => packWord buf) where
  check _ := rfl
  count := rfl
  access _ _ _ := rfl
  done _ _ := rfl
  packed_eq_nil_iff v := by
    rw [← List.length_eq_zero_iff, readWords_packed, packWords_length]
    bv_omega

theorem exec_of_bitRead {i : Instr} {k : BankId} {id func : Byte} {addr qty : Word} (h : BitRead i k id func addr qty) :
    formatOf func = .rd ∧ ∀ s, exec i s = .next (process id func false (readBits k addr qty) s) := by
  rcases h with ⟨rfl, rfl, rfl⟩ | ⟨rfl, rfl, rfl⟩
  · exact ⟨rfl, fun _ => rfl⟩
  · exact ⟨rfl, fun _ => rfl⟩

theorem exec_of_wordRead {i : Instr} {k : BankId} {id func : Byte} {addr qty : Word} (h : WordRead i k id func addr qty) :
    formatOf func = .rd ∧ ∀ s, exec i s = .next (process id func false (readWords k addr qty) s) := by
  rcases h with ⟨rfl, rfl, rfl⟩ | ⟨rfl, rfl, rfl⟩
  · exact ⟨rfl, fun _ => rfl⟩
  · exact ⟨rfl, fun _ => rfl⟩

/-! ## A handled frame whose check fails -/

/-- A check that raises an exception ends the frame with it, before the first access (R164, R309, R310). -/
theorem process_check_raises {id func code : Byte} {u : HandlerUnit} {s : State} (hready : Ready s)
    (hhandled : Handled s id func) (hcheck : u.check s.cfg = some code) (hcode : code ≠ 0) :
    Excepted s (process id func false u s) id func code ∧ FrameKeeps s (process id func false u s) ∧
      (process id func false u s).banks = s.banks ∧ QueueKeeps s (process id func false u s) := by
  have hend : process id func false u s = endProcess (dispatchFinish id (raise code (scaffold id func s))) := by
    rw [process_ready _ _ _ _ _ hready, (dispatchStart_handled id func u s hhandled).1 code hcheck]
    exact advance_finish _ _ _ _ _ _ (by omega) hready.1 rfl
  obtain ⟨hconcluded, hframe, hbanks, hqueue, hfault, unanswered, hresp⟩ :=
    finish_concluded s _ id (exceptionBody id func code)
      ((scaffold_keeps id func s).trans (raise_keeps code (scaffold id func s))) (fun _ => getAdu_raise hcode s)
  rw [hend]
  refine ⟨⟨hconcluded, ?_, ?_⟩, hframe, hbanks, hqueue, ?_⟩
  · rw [hresp]
    rfl
  · rw [hresp]
    rfl
  · rw [hfault]
    rfl

/-! ## A handled frame whose check passes, and a handled read in range -/

/-- A handled frame before its first access. -/
def beforeAccesses (id func : Byte) (u : HandlerUnit) (s : State) : State :=
  (scaffold id func s).setPos (.access 0 u.init)

/-- A handled frame after the last of its accesses. -/
def afterAccesses (id func : Byte) (u : HandlerUnit) (s : State) : State :=
  advance (internalStep id func false u) u.count (beforeAccesses id func u s)

theorem beforeAccesses_keeps (id func : Byte) (u : HandlerUnit) (s : State) :
    HandlingKeeps s (beforeAccesses id func u s) :=
  (scaffold_keeps id func s).trans (setPos_keeps (.access 0 u.init) (scaffold id func s))

/-- A handled frame whose check passes makes all its accesses, and three steps are left: the builder call, step 4 and the encoder
(R168). -/
theorem process_check_passes {id func : Byte} {u : HandlerUnit} {s : State} (hready : Ready s)
    (hhandled : Handled s id func) (hcheck : u.check s.cfg = none) :
    process id func false u s = advance (internalStep id func false u) 3 (afterAccesses id func u s) := by
  rw [process_ready _ _ _ _ _ hready, (dispatchStart_handled id func u s hhandled).2 hcheck, advance_add]
  rfl

section
variable {id func : Byte} {u : HandlerUnit} {k : BankId} {addr qty : Word} {pack : List Byte → Nat → Word → List Byte}
  {s : State}

theorem HandlerUnit.Reads.check_inRange (hu : u.Reads k addr qty pack)
    (hin : addr.toNat + qty.toNat < capOf s.cfg k) : u.check s.cfg = none := by
  rw [hu.check]
  exact if_pos (decide_eq_true hin)

theorem HandlerUnit.Reads.check_outOfRange (hu : u.Reads k addr qty pack)
    (hout : capOf s.cfg k ≤ addr.toNat + qty.toNat) : u.check s.cfg = some errorAddress := by
  rw [hu.check]
  exact if_neg (by simpa [inRange] using hout)

/-- The accesses of a read in range: they store nothing, pack every cell and emit the events (R69, R187). -/
theorem afterAccesses_of_reads (hu : u.Reads k addr qty pack) (hs : s.frState = .process)
    (hin : addr.toNat + qty.toNat < capOf s.cfg k) :
    HandlingKeeps s (afterAccesses id func u s) ∧ (afterAccesses id func u s).banks = s.banks ∧
      (afterAccesses id func u s).resp = (scaffold id func s).resp ∧
      (afterAccesses id func u s).pos = .access u.count (u.packed pack (fun j => s.cell k (addr.toNat + j))) ∧
      Emitted s (afterAccesses id func u s)
        (accessEvents s.cfg k .read addr.toNat qty.toNat (fun j => s.cell k (addr.toNat + j))) := by
  have hcap : addr.toNat + u.count ≤ capOf s.cfg k := by rw [hu.count]; omega
  obtain ⟨_, rfl, hkeeps, hbanks, hresp, hpos, hevents⟩ :=
    read_run id func false u k addr.toNat pack hu.access (beforeAccesses id func u s) hs rfl hcap u.count (Nat.le_refl _)
  refine ⟨(beforeAccesses_keeps id func u s).trans hkeeps, hbanks, hresp, hpos, ?_⟩
  rw [← hu.count]
  exact emitted_congr _ rfl rfl rfl rfl rfl hevents

/-- A handled read in range ends with step 4 on the data it has packed (R185). -/
theorem process_of_reads (hu : u.Reads k addr qty pack) (hready : Ready s) (hhandled : Handled s id func)
    (hin : addr.toNat + qty.toNat < capOf s.cfg k) :
    process id func false u s = endProcess (dispatchFinish id
      ((setRead (u.packed pack (fun j => s.cell k (addr.toNat + j))) (afterAccesses id func u s)).setPos .finish)) := by
  obtain ⟨hkeeps, -, -, hpos, -⟩ := afterAccesses_of_reads (id := id) (func := func) hu hready.1 hin
  have hprocess := hkeeps.frState.trans hready.1
  rw [process_check_passes hready hhandled (hu.check_inRange hin),
    advance_done _ _ _ _ _ _ _ _ (Nat.le_refl 3) hprocess hpos (Nat.le_refl _) (by rw [hu.done]; exact hprocess), hu.done]

end

/-! ## How a handled read ends -/

/-- The end of a handled read: `t` is the state after it, `data` the packed cells (R181 to R187). -/
structure ReadOutcome (s t : State) (k : BankId) (id func : Byte) (addr qty : Word) (data : List Byte) : Prop where
  frame : FrameKeeps s t
  banks : t.banks = s.banks
  outOfRange : capOf s.cfg k ≤ addr.toNat + qty.toNat → Excepted s t id func 2 ∧ QueueKeeps s t
  empty : addr.toNat + qty.toNat < capOf s.cfg k → qty = 0 → Dropped s t ∧ QueueKeeps s t ∧
    t.dispOut = (if id = 255 then .broadcastSuppressed else .dispatched)
  answered : addr.toNat + qty.toNat < capOf s.cfg k → qty ≠ 0 →
    Emitted s t (accessEvents s.cfg k .read addr.toNat qty.toNat (fun j => s.cell k (addr.toNat + j))) ∧
      t.resp.data = data ∧ Concluded s t id ([id, func, BitVec.ofNat 8 data.length] ++ data)

section
variable {id func : Byte} {u : HandlerUnit} {k : BankId} {addr qty : Word} {pack : List Byte → Nat → Word → List Byte}
  {s : State}

theorem readOutcome_of_outOfRange (hu : u.Reads k addr qty pack) (hready : Ready s) (hhandled : Handled s id func)
    (hout : capOf s.cfg k ≤ addr.toNat + qty.toNat) (data : List Byte) :
    ReadOutcome s (process id func false u s) k id func addr qty data := by
  obtain ⟨hexcepted, hframe, hbanks, hqueue⟩ :=
    process_check_raises hready hhandled (hu.check_outOfRange hout) (by decide)
  exact { frame := hframe, banks := hbanks, outOfRange := fun _ => ⟨hexcepted, hqueue⟩
          empty := fun hin => absurd hin (Nat.not_lt.mpr hout)
          answered := fun hin => absurd hin (Nat.not_lt.mpr hout) }

/-- The encoder has nothing to answer: the frame is a broadcast, or the read packed no data (R166, R186). -/
theorem getAdu_dispatchFinish_noData (hfmt : formatOf func = .rd)
    (hresp : s.resp = ⟨id, func, 0, 0, [], false⟩) : ∃ why, getAdu (dispatchFinish id s).resp = .fail why := by
  rw [dispatchFinish_resp, hresp]
  by_cases hb : id = 255
  · exact ⟨_, getAdu_unanswered _ (by simp [hb])⟩
  · exact ⟨_, (getAdu_read _ (by simpa using hb) hfmt).trans (if_pos rfl)⟩

theorem readOutcome_of_zero (hu : u.Reads k addr qty pack) (hfmt : formatOf func = .rd) (hready : Ready s)
    (hhandled : Handled s id func) (hin : addr.toNat + qty.toNat < capOf s.cfg k) (hq : qty = 0) (data : List Byte) :
    ReadOutcome s (process id func false u s) k id func addr qty data := by
  have hcount : u.count = 0 := hu.count.trans (congrArg BitVec.toNat hq)
  have hafter : afterAccesses id func u s = beforeAccesses id func u s := by
    unfold afterAccesses
    rw [hcount, advance_zero]
  have hend := process_of_reads hu hready hhandled hin
  rw [(hu.packed_eq_nil_iff _).mpr hq, hafter] at hend
  have hkeeps := (((beforeAccesses_keeps id func u s).trans (setRead_keeps [] _)).trans (setPos_keeps .finish _)).trans
    (dispatchFinish_keeps id _)
  obtain ⟨why, hfail⟩ := getAdu_dispatchFinish_noData (id := id) hfmt
    (s := (setRead [] (beforeAccesses id func u s)).setPos .finish) rfl
  obtain ⟨hdropped, hframe, hbanks, hqueue, hfault, hout, -⟩ := endProcess_dropped s _ why hfail hkeeps
  rw [dispatchFinish_banks] at hbanks
  rw [dispatchFinish_cbQueue] at hqueue
  rw [dispatchFinish_fault] at hfault
  rw [dispatchFinish_dispOut] at hout
  rw [hend]
  exact { frame := hframe, banks := hbanks
          outOfRange := fun hge => absurd hin (Nat.not_lt.mpr hge)
          empty := fun _ _ => ⟨hdropped, ⟨hqueue, congrArg FaultBits.cbOverflow hfault⟩, hout⟩
          answered := fun _ hne => absurd hq hne }

theorem readOutcome_of_inRange (hu : u.Reads k addr qty pack) (hfmt : formatOf func = .rd) (hready : Ready s)
    (hhandled : Handled s id func) (hin : addr.toNat + qty.toNat < capOf s.cfg k) (hq : qty ≠ 0) :
    ReadOutcome s (process id func false u s) k id func addr qty
      (u.packed pack (fun j => s.cell k (addr.toNat + j))) := by
  have hend := process_of_reads hu hready hhandled hin
  have hdata := mt (hu.packed_eq_nil_iff (fun j => s.cell k (addr.toNat + j))).mp hq
  generalize u.packed pack (fun j => s.cell k (addr.toNat + j)) = data at hend hdata ⊢
  obtain ⟨hkeeps, hbanks, hresp, -, hevents⟩ := afterAccesses_of_reads (id := id) (func := func) hu hready.1 hin
  generalize afterAccesses id func u s = t at hend hkeeps hbanks hresp hevents
  have hresp' : ((setRead data t).setPos .finish).resp = ⟨id, func, 0, 0, data, false⟩ := by simp [hresp]
  have hreply : getAdu ((setRead data t).setPos .finish).resp =
      .bytes (withCrc ([id, func, BitVec.ofNat 8 data.length] ++ data)) := by
    rw [hresp', getAdu_read _ rfl hfmt]
    exact if_neg (mt List.length_eq_zero_iff.mp hdata)
  obtain ⟨hconcluded, hframe, hbanks', hqueue, hfault, _, hrespEnd⟩ :=
    finish_concluded s _ id _ ((hkeeps.trans (setRead_keeps data t)).trans (setPos_keeps .finish _)) (fun _ => hreply)
  rw [hend]
  refine { frame := hframe, banks := hbanks'.trans hbanks
           outOfRange := fun hge => absurd hin (Nat.not_lt.mpr hge)
           empty := fun _ hzero => absurd hzero hq
           answered := fun _ _ => ⟨?_, ?_, hconcluded⟩ }
  · exact emitted_congr _ rfl rfl rfl hqueue (congrArg FaultBits.cbOverflow hfault) hevents
  · rw [hrespEnd, hresp']

/-- The range check first, then the quantity, decide how a handled read ends. -/
theorem process_readOutcome (hu : u.Reads k addr qty pack) (hfmt : formatOf func = .rd) (hready : Ready s)
    (hhandled : Handled s id func) :
    ReadOutcome s (process id func false u s) k id func addr qty
      (u.packed pack (fun j => s.cell k (addr.toNat + j))) := by
  by_cases hin : addr.toNat + qty.toNat < capOf s.cfg k
  · by_cases hq : qty = 0
    · exact readOutcome_of_zero hu hfmt hready hhandled hin hq _
    · exact readOutcome_of_inRange hu hfmt hready hhandled hin hq
  · exact readOutcome_of_outOfRange hu hready hhandled (Nat.le_of_not_lt hin) _

end

/-! ## The obligations -/

/-- Settles O16: the outcome of a handled read, with the packed bits as its data. -/
theorem bitReadRepliesPackedCells : Obligations.BitReadRepliesPackedCells := by
  intro i k id func addr qty s hi hready hhandled
  obtain ⟨hfmt, hexec⟩ := exec_of_bitRead hi
  have houtcome := process_readOutcome (readBits_reads k addr qty) hfmt hready hhandled
  refine ⟨_, hexec s, houtcome.frame, houtcome.banks, houtcome.outOfRange, houtcome.empty, fun hin hq => ?_⟩
  obtain ⟨hevents, hdata, hconcluded⟩ := houtcome.answered hin hq
  refine ⟨hevents, _, readBits_packed_length k addr qty _, hdata, fun j hj => ?_, hconcluded⟩
  rw [readBits_packed_length] at hj
  exact readBits_packed_bit k addr qty _ hj

/-- Settles O17: the outcome of a handled read, with the big-endian words as its data. -/
theorem wordReadRepliesCells : Obligations.WordReadRepliesCells := by
  intro i k id func addr qty s hi hready hhandled
  obtain ⟨hfmt, hexec⟩ := exec_of_wordRead hi
  have houtcome := process_readOutcome (readWords_reads k addr qty) hfmt hready hhandled
  rw [readWords_packed] at houtcome
  refine ⟨_, hexec s, houtcome.frame, houtcome.banks, houtcome.outOfRange, houtcome.empty, fun hin hq => ?_⟩
  have hanswered := houtcome.answered hin hq
  rwa [packWords_length] at hanswered

end Sys2Proof.Machine
end

section
/-! SUPPORT. The write function units (44_write_functions.md): how a handled write ends when its check passes, a single write as a
multiple write of one cell, and the obligations on the four codes. -/

namespace Sys2Proof.Machine

/-! ## A handled write whose check passes -/

/-- The end of a handled write that stores `n` cells of bank `k` from `addr` on and echoes the word `echo`: `t` is the state after
it (R200 to R203, R206, R98). -/
structure WriteStored (s t : State) (k : BankId) (id func : Byte) (addr echo : Word) (n : Nat) (value : Nat → Word) :
    Prop where
  frame : FrameKeeps s t
  cells : ∀ k' a, t.cell k' a =
    if k' = k ∧ addr.toNat ≤ a ∧ a < addr.toNat + n then value (a - addr.toNat) else s.cell k' a
  events : Emitted s t (accessEvents s.cfg k .write addr.toNat n value)
  respAddr : t.resp.addr = addr
  respData : t.resp.data = beBytes echo
  concluded : Concluded s t id ([id, func] ++ beBytes addr ++ beBytes echo)

/-- The reply of a write: address and data word are echoed (R98, R226). -/
theorem getAdu_echo {id func : Byte} (hfmt : formatOf func = .ws ∨ formatOf func = .wm) (addr echo : Word) :
    getAdu ⟨id, func, 0, addr, beBytes echo, false⟩ =
      .bytes (withCrc ([id, func] ++ beBytes addr ++ beBytes echo)) :=
  getAdu_write _ rfl hfmt

section
variable {id func : Byte} {k : BankId} {addr qty : Word} {check : Cfg → Option Byte} {n : Nat} {value : Nat → Word}
  {s : State}

/-- A handled multiple write makes its `n` stores one by one, and ends with step 4 on the reply that echoes the quantity. -/
theorem process_writeMultiple_stored (hready : Ready s) (hhandled : Handled s id func)
    (hfmt : formatOf func = .ws ∨ formatOf func = .wm) (hcheck : check s.cfg = none)
    (hcap : addr.toNat + n ≤ capOf s.cfg k) (hnarrow : ∀ j, narrow k (value j) = value j) :
    WriteStored s (process id func false (writeMultiple k addr qty check n value) s) k id func addr qty n value := by
  have hpasses := process_check_passes (u := writeMultiple k addr qty check n value) hready hhandled hcheck
  obtain ⟨t, hrun, hkeeps, hresp, hpos, hcells, hevents⟩ :=
    write_run id func false (writeMultiple k addr qty check n value) k addr.toNat value hnarrow (fun _ _ _ => rfl)
      (beforeAccesses id func _ s) hready.1 rfl hcap n (Nat.le_refl n)
  have hstart := (beforeAccesses_keeps id func (writeMultiple k addr qty check n value) s).trans hkeeps
  have hprocess := hstart.frState.trans hready.1
  have hend : process id func false (writeMultiple k addr qty check n value) s =
      endProcess (dispatchFinish id ((setMultiWrite addr qty t).setPos .finish)) := by
    rw [hpasses]
    exact (congrArg (advance _ 3) hrun).trans
      (advance_done _ _ _ _ _ _ _ _ (Nat.le_refl 3) hprocess hpos (Nat.le_refl n) hprocess)
  have hresp' : ((setMultiWrite addr qty t).setPos .finish).resp = ⟨id, func, 0, addr, beBytes qty, false⟩ := by
    simp [hresp, beforeAccesses]
  obtain ⟨hconcluded, hframe, hbanks, hqueue, hfault, _, hrespEnd⟩ :=
    finish_concluded s _ id _ ((hstart.trans (setMultiWrite_keeps addr qty t)).trans (setPos_keeps .finish _))
      (fun _ => hresp' ▸ getAdu_echo hfmt addr qty)
  rw [hend]
  refine { frame := hframe, cells := fun k' a => ?_, events := ?_, respAddr := ?_, respData := ?_, concluded := hconcluded }
  · exact (congrArg (bankGet · k' a) hbanks).trans (hcells k' a)
  · exact emitted_congr _ rfl rfl rfl hqueue (congrArg FaultBits.cbOverflow hfault) hevents
  · rw [hrespEnd, hresp']
  · rw [hrespEnd, hresp']

end

/-! ## A single write -/

/-- The multiple write of one cell that a single write amounts to: the error of its store is found before the store. -/
def writeOne (k : BankId) (addr arg value : Word) : HandlerUnit :=
  writeMultiple k addr arg (fun c => if addr.toNat < capOf c k then none else some errorAddress) 1 (fun _ => value)

/-- A unit of one access makes it on the scaffolded frame. -/
theorem afterAccesses_of_count_eq_one {id func : Byte} {u : HandlerUnit} {s : State} (hs : s.frState = .process)
    (hcount : u.count = 1) : afterAccesses id func u s = u.access 0 u.init (beforeAccesses id func u s) := by
  unfold afterAccesses
  rw [hcount, advance_process _ 0 (beforeAccesses id func u s) hs, internalStep_access _ _ _ _ _ 0 u.init rfl (by omega),
    advance_zero]

section
variable {k : BankId} {addr : Word} {s : State} (arg value : Word) (buf : List Byte)

theorem writeSingle_access_inRange (h : addr.toNat < capOf s.cfg k) :
    (writeSingle k addr arg value).access 0 buf s = (writeOne k addr arg value).access 0 buf s :=
  if_pos (by simp [memWrite, h])

theorem writeSingle_access_outOfRange (h : capOf s.cfg k ≤ addr.toNat) :
    (writeSingle k addr arg value).access 0 buf s = raise errorAddress s := by
  simp [writeSingle, memWrite, Nat.not_lt.mpr h]

end

/-- A handled single write runs as `writeOne` does: below the capacity both make the same store and the same echo; from the capacity
on, the failed store and the failed check raise the same exception (R200, R201). -/
theorem process_writeSingle {id func : Byte} {s : State} (hready : Ready s) (hhandled : Handled s id func)
    (k : BankId) (addr arg value : Word) :
    process id func false (writeSingle k addr arg value) s = process id func false (writeOne k addr arg value) s := by
  rcases Nat.lt_or_ge addr.toNat (capOf s.cfg k) with hin | hout
  · rw [process_check_passes hready hhandled rfl, process_check_passes hready hhandled (if_pos hin),
      afterAccesses_of_count_eq_one hready.1 rfl, afterAccesses_of_count_eq_one hready.1 rfl,
      writeSingle_access_inRange (s := beforeAccesses id func _ s) _ _ _ hin]
    have hprocess : ((writeOne k addr arg value).access 0 []
        (beforeAccesses id func (writeOne k addr arg value) s)).frState = .process :=
      (memWrite_frState ..).trans hready.1
    exact (advance_done id func false (writeSingle k addr arg value) _ 3 1 [] (Nat.le_refl 3) hprocess rfl
      (Nat.le_refl 1) hprocess).trans
      (advance_done id func false (writeOne k addr arg value) _ 3 1 [] (Nat.le_refl 3) hprocess rfl
        (Nat.le_refl 1) hprocess).symm
  · rw [process_check_passes hready hhandled rfl, afterAccesses_of_count_eq_one hready.1 rfl,
      writeSingle_access_outOfRange (s := beforeAccesses id func _ s) _ _ _ hout, process_ready _ _ _ _ _ hready,
      (dispatchStart_handled id func (writeOne k addr arg value) s hhandled).1 _ (if_neg (Nat.not_lt.mpr hout))]
    have hfinish (u : HandlerUnit) (m : Nat) := advance_finish id func false u (raise errorAddress (scaffold id func s))
      (m + 2) (Nat.le_add_left 2 m) hready.1 rfl
    exact (hfinish _ 1).trans (hfinish _ 2).symm

/-- The unit that handles a single write; its cell keeps the value whole (R65, R104). -/
theorem exec_of_singleWrite {i : Instr} {k : BankId} {id func : Byte} {addr arg value : Word}
    (h : SingleWrite i k id func addr arg value) :
    (∀ s, exec i s = .next (process id func false (writeSingle k addr arg value) s)) ∧ formatOf func = .ws ∧
      narrow k value = value := by
  rcases h with ⟨rfl, rfl, rfl, rfl⟩ | ⟨rfl, rfl, rfl, rfl⟩
  · have hvalue : (if arg = 0 then 0 else 1 : Word) = coilValue arg := by
      by_cases harg : arg = 0 <;> simp [harg, coilValue, bitWord]
    rw [hvalue]
    exact ⟨fun _ => rfl, rfl, narrow_bitWord _ _⟩
  · exact ⟨fun _ => rfl, rfl, rfl⟩

/-- Settles O18: the single write runs as a multiple write of one cell, whose check is the capacity. -/
theorem singleWriteStoresAndEchoes : Obligations.SingleWriteStoresAndEchoes := by
  intro i k id func addr arg value s hi hready hhandled
  obtain ⟨hexec, hfmt, hnarrow⟩ := exec_of_singleWrite hi
  refine ⟨_, (hexec s).trans (congrArg _ (process_writeSingle hready hhandled k addr arg value)), ?_⟩
  rcases Nat.lt_or_ge addr.toNat (capOf s.cfg k) with hin | hout
  · have hstored : WriteStored s (process id func false (writeOne k addr arg value) s) k id func addr arg 1
        (fun _ => value) :=
      process_writeMultiple_stored hready hhandled (.inl hfmt) (if_pos hin) hin (fun _ => hnarrow)
    refine ⟨hstored.frame, fun _ => ⟨fun k' a => ?_, hstored.events, hstored.respAddr, hstored.respData, hstored.concluded⟩,
      fun hout => absurd hin (Nat.not_lt.mpr hout)⟩
    have hone : addr.toNat ≤ a ∧ a < addr.toNat + 1 ↔ a = addr.toNat := by omega
    simpa only [hone] using hstored.cells k' a
  · obtain ⟨hexcepted, hframe, hbanks, hqueue⟩ := process_check_raises (u := writeOne k addr arg value) hready hhandled
      (if_neg (Nat.not_lt.mpr hout)) (by decide)
    exact ⟨hframe, fun hin => absurd hin (Nat.not_lt.mpr hout), fun _ => ⟨hbanks, hqueue, hexcepted⟩⟩

/-! ## The multiple writes -/

/-- The unit of `WR_COILS` (R202). -/
def coilsUnit (addr qty : Word) (data : List Byte) : HandlerUnit :=
  writeMultiple .coil addr qty (checkCoils addr qty) (coilsWritten qty data) (dataBit data)

/-- The unit of `WR_REGS` (R203). -/
def regsUnit (addr qty : Word) (data : List Byte) : HandlerUnit :=
  writeMultiple .hr addr qty (checkRegs addr qty data) (regsWritten qty data) (dataWord data)

theorem exec_wrCoils (id : Byte) (addr qty : Word) (data : List Byte) (s : State) :
    exec (.wrCoils id addr qty data) s = .next (process id 15 false (coilsUnit addr qty data) s) := rfl

theorem exec_wrRegs (id : Byte) (addr qty : Word) (data : List Byte) (s : State) :
    exec (.wrRegs id addr qty data) s = .next (process id 16 false (regsUnit addr qty data) s) := rfl

theorem checkCoils_eq_errorAddress {addr qty : Word} {c : Cfg} (h : capOf c .coil ≤ addr.toNat + qty.toNat) :
    checkCoils addr qty c = some errorAddress := by
  simp [checkCoils, inRange, Nat.not_lt.mpr h]

theorem checkRegs_eq_errorAddress {addr qty : Word} {data : List Byte} {c : Cfg}
    (h : capOf c .hr ≤ addr.toNat + qty.toNat) : checkRegs addr qty data c = some errorAddress := by
  simp [checkRegs, inRange, Nat.not_lt.mpr h]

theorem checkRegs_eq_errorData {addr qty : Word} {data : List Byte} {c : Cfg}
    (h : addr.toNat + qty.toNat < capOf c .hr) (hodd : data.length % 2 = 1) :
    checkRegs addr qty data c = some errorData := by
  simp [checkRegs, inRange, h, hodd]

/-- `WR_COILS` in range writes no more cells than it asks for, so all of them exist (R202). -/
theorem process_coilsUnit_stored {id : Byte} {addr qty : Word} {data : List Byte} {s : State} (hready : Ready s)
    (hhandled : Handled s id 15) (hin : addr.toNat + qty.toNat < capOf s.cfg .coil) :
    WriteStored s (process id 15 false (coilsUnit addr qty data) s) .coil id 15 addr qty (coilsWritten qty data)
      (dataBit data) :=
  process_writeMultiple_stored hready hhandled (.inr rfl) (checkCoils_eq_none hin)
    (by unfold coilsWritten; omega) (fun _ => narrow_bitWord _ _)

/-- `WR_REGS` in range with whole registers writes no more cells than it asks for, so all of them exist (R203). -/
theorem process_regsUnit_stored {id : Byte} {addr qty : Word} {data : List Byte} {s : State} (hready : Ready s)
    (hhandled : Handled s id 16) (hin : addr.toNat + qty.toNat < capOf s.cfg .hr) (heven : data.length % 2 = 0) :
    WriteStored s (process id 16 false (regsUnit addr qty data) s) .hr id 16 addr qty (regsWritten qty data)
      (dataWord data) :=
  process_writeMultiple_stored hready hhandled (.inr rfl) (checkRegs_eq_none hin heven)
    (by unfold regsWritten; omega) (fun _ => rfl)

/-- Settles O19: the range check decides between the stores and exception 2. -/
theorem writeCoilsStoresDataBits : Obligations.WriteCoilsStoresDataBits := by
  intro id addr qty data s hready hhandled
  refine ⟨_, exec_wrCoils id addr qty data s, ?_⟩
  rcases Nat.lt_or_ge (addr.toNat + qty.toNat) (capOf s.cfg .coil) with hin | hout
  · have hstored := process_coilsUnit_stored (data := data) hready hhandled hin
    exact ⟨hstored.frame, fun _ => ⟨hstored.cells, hstored.events, hstored.respAddr, hstored.respData, hstored.concluded⟩,
      fun hout => absurd hin (Nat.not_lt.mpr hout)⟩
  · obtain ⟨hexcepted, hframe, hbanks, hqueue⟩ := process_check_raises (u := coilsUnit addr qty data) hready hhandled
      (checkCoils_eq_errorAddress hout) (by decide)
    exact ⟨hframe, fun hin => absurd hin (Nat.not_lt.mpr hout), fun _ => ⟨hbanks, hqueue, hexcepted⟩⟩

/-- Settles O20: the range check comes first, then the byte count's parity decides between the stores and exception 3. -/
theorem writeRegsStoresDataWords : Obligations.WriteRegsStoresDataWords := by
  intro id addr qty data s hready hhandled
  refine ⟨_, exec_wrRegs id addr qty data s, ?_⟩
  rcases Nat.lt_or_ge (addr.toNat + qty.toNat) (capOf s.cfg .hr) with hin | hout
  · rcases Nat.mod_two_eq_zero_or_one data.length with heven | hodd
    · have hstored := process_regsUnit_stored hready hhandled hin heven
      exact ⟨hstored.frame,
        fun _ _ => ⟨hstored.cells, hstored.events, hstored.respAddr, hstored.respData, hstored.concluded⟩,
        fun _ hodd => absurd (heven.symm.trans hodd) Nat.zero_ne_one, fun hout => absurd hin (Nat.not_lt.mpr hout)⟩
    · obtain ⟨hexcepted, hframe, hbanks, hqueue⟩ := process_check_raises (u := regsUnit addr qty data) hready hhandled
        (checkRegs_eq_errorData hin hodd) (by decide)
      exact ⟨hframe, fun _ heven => absurd (heven.symm.trans hodd) Nat.zero_ne_one,
        fun _ _ => ⟨hbanks, hqueue, hexcepted⟩, fun hout => absurd hin (Nat.not_lt.mpr hout)⟩
  · obtain ⟨hexcepted, hframe, hbanks, hqueue⟩ := process_check_raises (u := regsUnit addr qty data) hready hhandled
      (checkRegs_eq_errorAddress hout) (by decide)
    exact ⟨hframe, fun hin => absurd hin (Nat.not_lt.mpr hout), fun hin => absurd hin (Nat.not_lt.mpr hout),
      fun _ => ⟨hbanks, hqueue, hexcepted⟩⟩

end Sys2Proof.Machine
end

section
/-! SUPPORT. The obligations on the response encoder (45_response_encode.md): when `GetADU` gives bytes, and in which format. -/

namespace Sys2Proof.Machine

/-! ## The category that the function code selects (R226) -/

theorem formatOf_rd_iff (b : Byte) : formatOf b = .rd ↔ b ∈ ([1, 2, 3, 4] : List Byte) := by
  revert b
  decide

theorem formatOf_write_iff (b : Byte) :
    (formatOf b = .ws ∨ formatOf b = .wm) ↔ b ∈ ([5, 6, 15, 16] : List Byte) := by
  revert b
  decide

/-- The four categories of a response: read, write, exception, and none of these (R226). -/
theorem category_cases (b : Byte) :
    b ∈ ([1, 2, 3, 4] : List Byte) ∨ b ∈ ([5, 6, 15, 16] : List Byte) ∨ b.getLsbD 7 = true ∨
      (b.getLsbD 7 = false ∧ b ∉ standardCodes) := by
  cases hf : formatOf b with
  | rd => exact .inl ((formatOf_rd_iff b).mp hf)
  | ws => exact .inr (.inl ((formatOf_write_iff b).mp (.inl hf)))
  | wm => exact .inr (.inl ((formatOf_write_iff b).mp (.inr hf)))
  | unknown =>
    cases h7 : b.getLsbD 7 with
    | true => exact .inr (.inr (.inl rfl))
    | false => exact .inr (.inr (.inr ⟨rfl, (formatOf_eq_unknown_iff b).mp hf⟩))

/-! ## `GetADU` -/

theorem getAdu_noCategory (r : Response) (hu : r.unanswered = false) (h7 : r.func.getLsbD 7 = false)
    (hf : r.func ∉ standardCodes) : getAdu r = .fail .noCategory := by
  simp only [getAdu, hu, h7, (formatOf_eq_unknown_iff r.func).mpr hf, Bool.false_eq_true, if_false]

/-- Settles O9: each clause is the equation of `GetADU` in one category, with the reply's body written out. -/
theorem getAduFailures : Obligations.GetAduFailures := by
  intro r
  refine ⟨getAdu_unanswered r, fun hu => ⟨fun hread => ?_, fun hwrite => ?_, ?_, ?_⟩⟩
  · rw [getAdu_read r hu ((formatOf_rd_iff r.func).mpr hread)]
    simp only [List.length_eq_zero_iff]
    rfl
  · exact getAdu_write r hu ((formatOf_write_iff r.func).mpr hwrite)
  · exact getAdu_exception r hu
  · exact getAdu_noCategory r hu

/-- Where one test decides between a reason and a reply, bytes mean that the test passed and that they are that reply. -/
theorem ite_fail_eq_bytes_iff {c : Prop} [Decidable c] {why : FailReason} {u t : List Byte} :
    (if c then Adu.fail why else .bytes u) = .bytes t ↔ ¬ c ∧ t = u := by
  by_cases h : c <;> simp [h, eq_comm]

theorem unanswered_of_getAdu_bytes {r : Response} {t : List Byte} (h : getAdu r = .bytes t) : r.unanswered = false := by
  cases hu : r.unanswered with
  | false => rfl
  | true => cases (getAdu_unanswered r hu).symm.trans h

theorem crc16_of_getAdu_bytes {r : Response} {t : List Byte} (h : getAdu r = .bytes t) : crc16 t = 0 := by
  obtain ⟨p, rfl⟩ := getAdu_bytes r t h
  exact crc16_withCrc p

theorem exists_cons_cons_of_not_length_lt_two {data : List Byte} (h : ¬ data.length < 2) :
    ∃ d0 d1 rest, data = d0 :: d1 :: rest := by
  match data with
  | [] => exact absurd Nat.zero_lt_two h
  | [_] => exact absurd Nat.one_lt_two h
  | d0 :: d1 :: rest => exact ⟨d0, d1, rest, rfl⟩

/-- Settles O8: by the category of the function code, the equation of `GetADU` there (O9) says which reply the bytes are. -/
theorem everyAduIsWellFormed : Obligations.EveryAduIsWellFormed := by
  intro r t h
  have hu := unanswered_of_getAdu_bytes h
  obtain ⟨hread, hwrite, hexception, hnone⟩ := (getAduFailures r).2 hu
  refine ⟨hu, crc16_of_getAdu_bytes h, ?_⟩
  rcases category_cases r.func with hf | hf | h7 | ⟨h7, hf⟩
  · exact .inl ⟨hf, ite_fail_eq_bytes_iff.mp ((hread hf).symm.trans h)⟩
  · obtain ⟨hlen, rfl⟩ := ite_fail_eq_bytes_iff.mp ((hwrite hf).symm.trans h)
    obtain ⟨d0, d1, rest, hdata⟩ := exists_cons_cons_of_not_length_lt_two hlen
    exact .inr (.inl ⟨hf, d0, d1, rest, hdata, by rw [hdata]; rfl⟩)
  · exact .inr (.inr ⟨h7, ite_fail_eq_bytes_iff.mp ((hexception h7).symm.trans h)⟩)
  · cases (hnone h7 hf).symm.trans h

end Sys2Proof.Machine
end

section
/-! SUPPORT. The framer in `RECEIVE` (46_framer.md): the silent interval, the receiver's deliveries, the engine's turn, runs of ticks,
and the obligations on them. -/

namespace Sys2Proof.Machine

variable {s : State} {rest : List Move}

/-! ## The silent interval (R241) -/

section
variable {c : Cfg}

theorem tSilent_of_override (h : c.silentOvr ≠ 0) : tSilent c = c.silentOvr := if_pos h

theorem tSilent_of_fixed (h : c.silentOvr = 0) (hb : c.baud.toInt ≤ 0 ∨ 19200 < c.baud.toInt) : tSilent c = 1750 := by
  rw [tSilent, if_neg (not_not.mpr h), if_pos hb]

theorem tSilent_of_rate (h : c.silentOvr = 0) (hpos : 0 < c.baud.toInt) (hmax : c.baud.toInt ≤ 19200) :
    tSilent c = BitVec.ofNat 32 (35000000 / c.baud.toNat) := by
  rw [tSilent, if_neg (not_not.mpr h), if_neg (by omega)]

end

/-- Settles O29: by the branch of the rule; a rate that is divided by is positive, so that it is its own unsigned value. -/
theorem silentIntervalRule : Obligations.SilentIntervalRule := by
  intro c
  refine ⟨tSilent_of_override, fun h hb => ?_, fun h hpos hmax => ?_, tSilent_pos c, fun _ => rfl⟩
  · rw [tSilent_of_fixed h hb]
    rfl
  · have hbaud : c.baud.toInt = c.baud.toNat := by
      have hcond := BitVec.toInt_eq_toNat_cond c.baud
      have hlt := c.baud.isLt
      split at hcond <;> omega
    have hfits : 35000000 / c.baud.toNat < 2 ^ 32 := Nat.lt_of_le_of_lt (Nat.div_le_self ..) (by norm_num)
    rw [tSilent_of_rate h hpos hmax, BitVec.toNat_ofNat, Nat.mod_eq_of_lt hfits, hbaud]
    exact Int.natCast_ediv 35000000 c.baud.toNat

/-! ## The receiver (R242, R243) -/

/-- In `HALTED` a delivery is discarded (R257). -/
theorem enqueue_of_halted (item : RxItem) (hs : s.frState = .halted) : enqueue item s = s := by
  rcases enqueue_cases item s with ⟨_, e⟩ | ⟨hne, _⟩ | ⟨hne, _⟩
  · exact e
  · exact absurd hs hne
  · exact absurd hs hne

theorem enqueue_of_room (item : RxItem) (hs : s.frState ≠ .halted)
    (hroom : fits s.params.rxFifoDepth s.rxFifo.length = true) :
    enqueue item s = { s with rxFifo := s.rxFifo ++ [item] } := by
  rcases enqueue_cases item s with ⟨hhalted, _⟩ | ⟨_, _, e⟩ | ⟨_, hfull, _⟩
  · exact absurd hhalted hs
  · exact e
  · exact absurd (hfull.symm.trans hroom) Bool.false_ne_true

theorem rxByte_of_live (b : Byte) (h : s.rxEnded = false) : rxByte b s = enqueue (.byte b) s := by simp [rxByte, h]

theorem rxByte_of_ended (b : Byte) (h : s.rxEnded = true) : rxByte b s = s := if_pos h

theorem rxError_of_live (e : ErrVal) (h : s.rxEnded = false) :
    rxError e s = enqueue (.err e) { s with rxEnded := true } := by simp [rxError, h]

theorem rxError_of_ended (e : ErrVal) (h : s.rxEnded = true) : rxError e s = s := if_pos h

theorem step_rxByte {b : Byte} (hr : s.inReset = false) (hq : s.sched = .rxByte b :: rest) :
    step s = .next (rxByte b { s with sched := rest }) := step_move s _ rest hr hq

theorem step_rxError {e : ErrVal} (hr : s.inReset = false) (hq : s.sched = .rxError e :: rest) :
    step s = .next (rxError e { s with sched := rest }) := step_move s _ rest hr hq

/-- A byte that finds room is queued behind the others (R242, R258). -/
theorem step_rxByte_of_room {b : Byte} (hr : s.inReset = false) (hlive : s.rxEnded = false) (hs : s.frState ≠ .halted)
    (hroom : fits s.params.rxFifoDepth s.rxFifo.length = true) (hq : s.sched = .rxByte b :: rest) :
    step s = .next { s with sched := rest, rxFifo := s.rxFifo ++ [.byte b] } := by
  simp [step_rxByte hr hq, rxByte_of_live, hlive, enqueue_of_room, hs, hroom]

/-- Settles O36: the delivery is live or past the receiver's error, and a live one finds room or a halted block. -/
theorem receiverAppendsAtTheEnd : Obligations.ReceiverAppendsAtTheEnd := by
  intro s rest b e hr
  refine ⟨fun hlive hroom hs => ?_, fun hlive hs => ?_, fun hended hq => ?_⟩
  · have hfits := (fits_iff _ _).mpr hroom
    refine ⟨step_rxByte_of_room hr hlive hs hfits, fun hq => ?_⟩
    simp [step_rxError hr hq, rxError_of_live, hlive, enqueue_of_room, hs, hfits]
  · refine ⟨fun hq => ?_, fun hq => ?_⟩
    · simp [step_rxByte hr hq, rxByte_of_live, hlive, enqueue_of_halted, hs]
    · simp [step_rxError hr hq, rxError_of_live, hlive, enqueue_of_halted, hs]
  · rcases hq with hq | hq
    · simp [step_rxByte hr hq, rxByte_of_ended, hended]
    · simp [step_rxError hr hq, rxError_of_ended, hended]

/-! ## The engine's turn (R244, R245, R249) -/

theorem receiveStep_byte {b : Byte} {fifo : List RxItem} (h : s.rxFifo = .byte b :: fifo) :
    receiveStep s = popByte b { s with rxFifo := fifo } := by simp only [receiveStep, h]

theorem receiveStep_err {e : ErrVal} {fifo : List RxItem} (h : s.rxFifo = .err e :: fifo) :
    receiveStep s = popErr e { s with rxFifo := fifo } := by simp only [receiveStep, h]

theorem receiveStep_held {n : Nat} (h : s.rxFifo = []) (hn : s.ticksHeld = n + 1) :
    receiveStep s = countTick { s with ticksHeld := n } := by simp only [receiveStep, h, hn]

theorem runEngine_receive (q : Option Nat) (hs : s.frState = .receive) : runEngine q s = .next (receiveStep s) := by
  simp only [runEngine, engineTurn, hs]

theorem step_engine_receive {q : Option Nat} (hr : s.inReset = false) (hs : s.frState = .receive)
    (hq : s.sched = .engine q :: rest) : step s = .next (receiveStep { s with sched := rest }) :=
  (step_move s _ rest hr hq).trans (runEngine_receive (s := { s with sched := rest }) q hs)

/-- A byte that finds room in the buffer is stored, and the overflow flag stays (R31, R244). -/
theorem accAppend_of_room (b : Byte) {a : Acc} (h : a.len < 265) :
    accAppend b a = { a with bytes := a.bytes ++ [b], len := a.len + 1 } := by
  simp [accAppend, Config.accDepth, h, Nat.not_lt.mpr h]

theorem step_engine_byte {q : Option Nat} {b : Byte} {fifo : List RxItem} (hr : s.inReset = false)
    (hs : s.frState = .receive) (hfifo : s.rxFifo = .byte b :: fifo) (hq : s.sched = .engine q :: rest) :
    step s = .next (popByte b { s with sched := rest, rxFifo := fifo }) := by
  rw [step_engine_receive hr hs hq, receiveStep_byte (s := { s with sched := rest }) hfifo]

theorem step_engine_byte_of_room {q : Option Nat} {b : Byte} {fifo : List RxItem} (hr : s.inReset = false)
    (hs : s.frState = .receive) (hfifo : s.rxFifo = .byte b :: fifo) (hlen : s.acc.len < 265)
    (hq : s.sched = .engine q :: rest) :
    step s = .next { s with
      sched := rest
      rxFifo := fifo
      idleUs := 0
      acc := { s.acc with bytes := s.acc.bytes ++ [b], len := s.acc.len + 1 } } := by
  rw [step_engine_byte hr hs hfifo hq, popByte, accAppend_of_room b hlen]

/-- Settles O31: the engine's turn pops the byte. -/
theorem poppedByteRestartsTimer : Obligations.PoppedByteRestartsTimer := by
  intro s q b fifo rest hr hq hs hfifo
  exact step_engine_byte hr hs hfifo hq

/-- Settles O35: the engine's turn pops the error, and `popErr` takes the bytes as a frame or halts. -/
theorem poppedErrorEndsTheRun : Obligations.PoppedErrorEndsTheRun := by
  intro s q e fifo rest hr hq hs hfifo
  rw [step_engine_receive hr hs hq, receiveStep_err (s := { s with sched := rest }) hfifo]
  rcases popErr_cases e { s with sched := rest, rxFifo := fifo } with ⟨hlen, he⟩ | ⟨hlen, he⟩ <;> rw [he]
  · exact ⟨_, rfl, rfl, rfl, firstCause_eq _ _, fun _ => ⟨rfl, rfl, rfl, rfl, rfl, rfl⟩, fun h => absurd h hlen.ne'⟩
  · exact ⟨_, rfl, rfl, rfl, (firstCause_firstCause _ _).trans (firstCause_eq _ _), fun h => absurd hlen h.ne',
      fun _ => ⟨rfl, rfl, rfl⟩⟩

/-! ## Runs of equal moves -/

/-- A run of `n` equal moves, where `g k sched` is the state after `k` of them with the moves `sched` still to come. -/
theorem run_moves (m : Move) (g : Nat → List Move → State) (n : Nat) (rest : List Move)
    (hstep : ∀ k < n, ∀ sched, step (g k (m :: sched)) = .next (g (k + 1) sched)) :
    runTo n (g 0 (List.replicate n m ++ rest)) (g n rest) := by
  induction n generalizing rest with
  | zero => rfl
  | succ n ih =>
    rw [List.replicate_succ', List.append_assoc]
    exact run_trans n 1 _ _ _ (ih (m :: rest) (fun k hk => hstep k (Nat.lt_succ_of_lt hk)))
      (run_one _ _ (hstep n (Nat.lt_succ_self n) rest))

/-! ## Ticks of silence (R246, R247) -/

theorem step_usTick (hr : s.inReset = false) (hq : s.sched = .usTick :: rest) :
    step s = .next (usTick { s with sched := rest }) := step_move s _ rest hr hq

/-- The block waits in `RECEIVE` with nothing queued and no tick held: a tick is counted when it comes. -/
structure Silent (s : State) : Prop where
  running : s.inReset = false
  receiving : s.frState = .receive
  fifo : s.rxFifo = []
  held : s.ticksHeld = 0

theorem Silent.step_usTick (h : Silent s) (hq : s.sched = .usTick :: rest) :
    step s = .next (countTick { s with sched := rest }) := by
  rw [Machine.step_usTick h.running hq]
  simp [usTick, h.receiving, h.fifo, h.held]

theorem countTick_of_lt (h : s.idleUs.toNat + 1 < (tSilent s.cfg).toNat) :
    countTick s = { s with idleUs := s.idleUs + 1 } :=
  if_neg (fun he => by bv_omega)

theorem countTick_of_empty (h : s.idleUs + 1 = tSilent s.cfg) (hl : s.acc.len = 0) :
    countTick s = { s with idleUs := 0 } := by
  rw [countTick, if_pos h, if_neg (by omega)]

theorem countTick_of_nonempty (h : s.idleUs + 1 = tSilent s.cfg) (hl : 0 < s.acc.len) :
    countTick s = takeFrame { s with idleUs := tSilent s.cfg } := by
  rw [countTick, if_pos h, if_pos hl, h]

theorem Silent.step_usTick_of_lt (h : Silent s) (hlt : s.idleUs.toNat + 1 < (tSilent s.cfg).toNat)
    (hq : s.sched = .usTick :: rest) : step s = .next { s with sched := rest, idleUs := s.idleUs + 1 } := by
  rw [h.step_usTick hq, countTick_of_lt (s := { s with sched := rest }) hlt]

theorem Silent.step_usTick_of_nonempty (h : Silent s) (hlimit : s.idleUs + 1 = tSilent s.cfg) (hl : 0 < s.acc.len)
    (hq : s.sched = .usTick :: rest) :
    step s = .next (takeFrame { s with sched := rest, idleUs := tSilent s.cfg }) := by
  rw [h.step_usTick hq, countTick_of_nonempty (s := { s with sched := rest }) hlimit hl]

/-- The state after `k` ticks of silence that do not reach the limit. -/
def afterSilence (s : State) (k : Nat) (sched : List Move) : State :=
  { s with sched := sched, idleUs := s.idleUs + BitVec.ofNat 32 k }

theorem Silent.afterSilence (h : Silent s) (k : Nat) (sched : List Move) : Silent (afterSilence s k sched) := { h with }

theorem afterSilence_zero (hq : s.sched = rest) : afterSilence s 0 rest = s := by
  subst hq
  simp [afterSilence]

/-- Silence that does not reach the limit only counts (R246). -/
theorem Silent.run_ticks (h : Silent s) (n : Nat) (hlt : s.idleUs.toNat + n < (tSilent s.cfg).toNat)
    (hq : s.sched = List.replicate n .usTick ++ rest) : runTo n s (Machine.afterSilence s n rest) := by
  have hrun := run_moves .usTick (Machine.afterSilence s) n rest (fun k hk sched => ?_)
  · rwa [afterSilence_zero hq] at hrun
  · have hcount : (s.idleUs + BitVec.ofNat 32 k).toNat + 1 < (tSilent s.cfg).toNat := by bv_omega
    have htick : s.idleUs + BitVec.ofNat 32 k + 1 = s.idleUs + BitVec.ofNat 32 (k + 1) := by bv_omega
    rw [(h.afterSilence k _).step_usTick_of_lt hcount rfl]
    simp only [Machine.afterSilence, htick]

/-- The tick that reaches the limit is counted after the others. -/
theorem Silent.run_ticks_to_limit (h : Silent s) (n : Nat) (hlt : s.idleUs.toNat + n < (tSilent s.cfg).toNat)
    (hq : s.sched = List.replicate (n + 1) .usTick ++ rest) :
    runTo (n + 1) s (countTick (Machine.afterSilence s n rest)) := by
  rw [List.replicate_succ', List.append_assoc] at hq
  exact run_trans n 1 _ _ _ (h.run_ticks n hlt hq) (run_one _ _ ((h.afterSilence n _).step_usTick rfl))

/-- Settles O32: the ticks before the limit count, and the one that reaches it finds the buffer empty or takes it as a frame. -/
theorem silenceEndsFrameAtTSilent : Obligations.SilenceEndsFrameAtTSilent := by
  intro s n rest hr hs hfifo hheld hn hq
  have hsilent : Silent s := ⟨hr, hs, hfifo, hheld⟩
  obtain ⟨n, rfl⟩ := Nat.exists_eq_add_one.mpr hn
  refine ⟨fun hlt => hsilent.run_ticks (n + 1) hlt hq, fun hlimit hempty => ?_, fun hlimit hbytes => ?_⟩
  · have hlast : s.idleUs + BitVec.ofNat 32 n + 1 = tSilent s.cfg := by bv_omega
    have hrun := hsilent.run_ticks_to_limit n (by omega) hq
    rwa [countTick_of_empty (s := afterSilence s n rest) hlast hempty] at hrun
  · have hlast : s.idleUs + BitVec.ofNat 32 n + 1 = tSilent s.cfg := by bv_omega
    have hrun := hsilent.run_ticks_to_limit n (by omega) hq
    rw [countTick_of_nonempty (s := afterSilence s n rest) hlast hbytes] at hrun
    simpa [takeFrame, afterSilence, hheld, Config.accDepth, emptyAcc] using hrun

/-! ## Queued bytes and a held tick (R245, R258) -/

/-- The state after `k` of the queued bytes have been popped, all of which find room in the buffer. -/
def afterPops (bytes : List Byte) (s : State) (k : Nat) (sched : List Move) : State :=
  { s with
    sched := sched
    rxFifo := (bytes.drop k).map .byte
    idleUs := if k = 0 then s.idleUs else 0
    acc := { s.acc with bytes := s.acc.bytes ++ bytes.take k, len := s.acc.len + k } }

/-- The engine pops one queued byte a turn, oldest first. -/
theorem run_pops (bytes : List Byte) (hr : s.inReset = false) (hs : s.frState = .receive)
    (hfifo : s.rxFifo = bytes.map .byte) (hroom : s.acc.len + bytes.length ≤ 265)
    (hq : s.sched = List.replicate bytes.length (.engine none) ++ rest) :
    runTo bytes.length s (afterPops bytes s bytes.length rest) := by
  have hrun := run_moves (.engine none) (afterPops bytes s) bytes.length rest (fun k hk sched => ?_)
  · have hstart : afterPops bytes s 0 (List.replicate bytes.length (.engine none) ++ rest) = s := by
      simp [afterPops, ← hfifo, ← hq]
    rwa [hstart] at hrun
  · have hhead : (bytes.drop k).map RxItem.byte = .byte bytes[k] :: (bytes.drop (k + 1)).map .byte := by
      rw [List.drop_eq_getElem_cons hk, List.map_cons]
    have htake := List.take_succ_eq_append_getElem hk
    have hlen : s.acc.len + k < 265 := by omega
    rw [step_engine_byte_of_room (s := afterPops bytes s k _) hr hs hhead hlen rfl]
    simp only [afterPops, htake, List.append_assoc, Nat.add_assoc, Nat.add_one_ne_zero, if_false]

/-- A tick that arrives while items are queued is held (R245). -/
theorem usTick_of_queued (hs : s.frState = .receive) (hfifo : s.rxFifo ≠ []) :
    usTick s = { s with ticksHeld := s.ticksHeld + 1 } := by
  simp [usTick, hs, hfifo]

theorem step_usTick_of_queued (hr : s.inReset = false) (hs : s.frState = .receive) (hfifo : s.rxFifo ≠ [])
    (hq : s.sched = .usTick :: rest) : step s = .next { s with sched := rest, ticksHeld := s.ticksHeld + 1 } := by
  rw [step_usTick hr hq, usTick_of_queued (s := { s with sched := rest }) hs hfifo]

/-- A held tick that does not reach the limit is counted by a turn that finds the queue empty (R245). -/
theorem step_engine_held_of_lt {q : Option Nat} {n : Nat} (hr : s.inReset = false) (hs : s.frState = .receive)
    (hfifo : s.rxFifo = []) (hheld : s.ticksHeld = n + 1) (hlt : s.idleUs.toNat + 1 < (tSilent s.cfg).toNat)
    (hq : s.sched = .engine q :: rest) :
    step s = .next { s with sched := rest, ticksHeld := n, idleUs := s.idleUs + 1 } := by
  rw [step_engine_receive hr hs hq, receiveStep_held (s := { s with sched := rest }) hfifo hheld,
    countTick_of_lt (s := { s with sched := rest, ticksHeld := n }) hlt]

/-- Settles O33: the tick waits behind the queue, a turn pops each byte, and the next turn counts the tick. -/
theorem queuedBytesComeBeforeHeldTick : Obligations.QueuedBytesComeBeforeHeldTick := by
  intro s bytes rest hr hs hne hfifo hheld hroom hsilent hq
  have htick := step_usTick_of_queued hr hs (by simpa [hfifo] using hne) hq
  have hpops := run_succ _ _ _ _ htick (run_pops bytes (rest := .engine none :: rest) hr hs hfifo hroom rfl)
  simp only [afterPops, hne, hheld, List.drop_length, List.map_nil, List.take_length, List.length_eq_zero_iff, if_false,
    Nat.zero_add] at hpops
  exact ⟨hpops, run_trans (bytes.length + 1) 1 _ _ _ hpops
    (run_one _ _ (step_engine_held_of_lt hr hs rfl rfl hsilent rfl))⟩

/-! ## The race of a byte and the completing tick (R248) -/

/-- A byte that comes to an empty queue and is popped by the next turn: it joins the buffer, and the timer restarts. -/
theorem Silent.run_rxByte_engine {b : Byte} {q : Option Nat} (h : Silent s) (hlive : s.rxEnded = false)
    (hroom : fits s.params.rxFifoDepth 0 = true) (hlen : s.acc.len < 265) (hq : s.sched = .rxByte b :: .engine q :: rest) :
    runTo 2 s { s with
      sched := rest
      idleUs := 0
      acc := { s.acc with bytes := s.acc.bytes ++ [b], len := s.acc.len + 1 } } := by
  obtain ⟨hr, hs, hfifo, -⟩ := h
  have hbyte := step_rxByte_of_room hr hlive (by simp [hs]) (by rwa [hfifo]) hq
  rw [hfifo] at hbyte ⊢
  exact run_succ _ _ _ _ hbyte (run_one _ _ (step_engine_byte_of_room hr hs rfl hlen rfl))

/-- Settles O34: tick first, the byte finds the frame taken; byte first, the engine pops it and the timer starts again. -/
theorem raceOfByteAndTickAdmitsBothOrders : Obligations.RaceOfByteAndTickAdmitsBothOrders := by
  intro s b rest hr hs hfifo hlive hheld hroom hlimit hbytes hlen
  have hsilent : Silent s := ⟨hr, hs, hfifo, hheld⟩
  refine ⟨fun hq => ?_, fun hq hne => ?_⟩
  · have hfits : fits s.params.rxFifoDepth s.rxFifo.length = true := by rwa [hfifo]
    refine ⟨_, run_succ _ _ _ _ (hsilent.step_usTick_of_nonempty hlimit hbytes hq)
      (run_one _ _ (step_rxByte_of_room hr hlive (by simp) hfits rfl)), rfl, rfl, rfl, ?_⟩
    simp [hfifo]
  · have hone : 1 < (tSilent s.cfg).toNat := by
      have hpos := tSilent_pos s.cfg
      bv_omega
    have hpopped := hsilent.run_rxByte_engine hlive hroom hlen hq
    exact ⟨_, run_trans 2 1 _ _ _ hpopped (run_one _ _ (Silent.step_usTick_of_lt ⟨hr, hs, hfifo, hheld⟩ hone rfl)),
      hs, rfl, rfl, rfl⟩

end Sys2Proof.Machine
end

section
/-! SUPPORT. The framer in `TRANSMIT`, `SETTLE` and `HALTED` (46_framer.md): what goes out, the settle wait, what a halted block still
does, and the obligations on them. -/

namespace Sys2Proof.Machine

variable {s : State} {rest : List Move}

/-! ## Ticks without effect (R252, R253, R257) -/

theorem usTick_of_uncounted (hreceive : s.frState ≠ .receive) (hsettle : s.frState ≠ .settle) : usTick s = s := by
  rcases usTick_cases s with ⟨hs, _⟩ | ⟨hs, _⟩ | ⟨hs, _⟩ | ⟨_, _, e⟩
  · exact absurd hs hreceive
  · exact absurd hs hreceive
  · exact absurd hs hsettle
  · exact e

theorem step_usTick_of_uncounted (hr : s.inReset = false) (hreceive : s.frState ≠ .receive)
    (hsettle : s.frState ≠ .settle) (hq : s.sched = .usTick :: rest) : step s = .next { s with sched := rest } := by
  rw [step_usTick hr hq, usTick_of_uncounted (s := { s with sched := rest }) hreceive hsettle]

/-- Settles O42: none of the three states counts a tick. -/
theorem ticksCountOnlyInReceiveAndSettle : Obligations.TicksCountOnlyInReceiveAndSettle := by
  intro s rest hr hq hs
  refine step_usTick_of_uncounted hr ?_ ?_ hq <;> rcases hs with hs | hs | hs <;> simp [hs]

/-! ## The transmitter (R253, R254) -/

theorem txOffer_of_transmit (hs : s.frState = .transmit) : s.txOffer = s.txBuf[s.txPtr]? := by
  simp only [State.txOffer, hs]

theorem txOffer_eq_none (hs : s.frState ≠ .transmit) : s.txOffer = none := by
  cases h : s.txOffer with
  | none => rfl
  | some b => exact absurd (txOffer_some s b h).1 hs

theorem step_txAccept (hr : s.inReset = false) (hq : s.sched = .txAccept :: rest) :
    step s = .next (txAccept { s with sched := rest }) := step_move s _ rest hr hq

/-- Before the last byte an acceptance sends a byte and goes on to the next. -/
theorem step_txAccept_more {b : Byte} (hr : s.inReset = false) (hs : s.frState = .transmit)
    (hmore : s.txPtr + 1 < s.txBuf.length) (hb : s.txBuf[s.txPtr]? = some b) (hq : s.sched = .txAccept :: rest) :
    step s = .next { s with sched := rest, wire := s.wire ++ [b], txPtr := s.txPtr + 1 } := by
  rw [step_txAccept hr hq, txAccept]
  simp [State.txOffer, hs, hb, hmore.ne]

/-- The acceptance of the last byte begins the settle wait. -/
theorem step_txAccept_last {b : Byte} (hr : s.inReset = false) (hs : s.frState = .transmit)
    (hlast : s.txPtr + 1 = s.txBuf.length) (hb : s.txBuf[s.txPtr]? = some b) (hq : s.sched = .txAccept :: rest) :
    step s = .next { s with
      sched := rest
      wire := s.wire ++ [b]
      txPtr := s.txBuf.length
      settleUs := 0
      frState := .settle } := by
  rw [step_txAccept hr hq, txAccept]
  simp [State.txOffer, hs, hb, hlast]

theorem take_drop_succ {α : Type} {l : List α} {p k : Nat} (h : p + k < l.length) :
    (l.drop p).take (k + 1) = (l.drop p).take k ++ [l[p + k]] := by
  rw [List.take_add_one, List.getElem?_drop, List.getElem?_eq_getElem h, Option.toList_some]

/-- The state after `k` acceptances, with more bytes still to send. -/
def afterAccepts (s : State) (k : Nat) (sched : List Move) : State :=
  { s with sched := sched, wire := s.wire ++ (s.txBuf.drop s.txPtr).take k, txPtr := s.txPtr + k }

/-- Acceptances put the bytes of the reply on the wire in order, with nothing between. -/
theorem run_accepts (n : Nat) (hr : s.inReset = false) (hs : s.frState = .transmit) (hn : s.txPtr + n < s.txBuf.length)
    (hq : s.sched = List.replicate n .txAccept ++ rest) : runTo n s (afterAccepts s n rest) := by
  have hrun := run_moves .txAccept (afterAccepts s) n rest (fun k hk sched => ?_)
  · have hstart : afterAccepts s 0 (List.replicate n .txAccept ++ rest) = s := by
      simp [afterAccepts, ← hq]
    rwa [hstart] at hrun
  · have hbyte : s.txBuf[s.txPtr + k]? = some s.txBuf[s.txPtr + k] := List.getElem?_eq_getElem (by omega)
    have htake := take_drop_succ (l := s.txBuf) (p := s.txPtr) (k := k) (by omega)
    rw [step_txAccept_more (s := afterAccepts s k _) hr hs (show s.txPtr + k + 1 < s.txBuf.length by omega) hbyte rfl]
    simp only [afterAccepts, htake, List.append_assoc, Nat.add_assoc]

/-- Settles O38: all acceptances but the last send a byte each, and the last one sends its byte and begins the settle wait. -/
theorem transmitSendsTheRestInOrder : Obligations.TransmitSendsTheRestInOrder := by
  intro s rest hr hs hptr
  refine ⟨txOffer_of_transmit hs, step_usTick_of_uncounted hr (by simp [hs]) (by simp [hs]),
    fun b hmore hb => step_txAccept_more hr hs hmore hb, fun hq => ?_⟩
  obtain ⟨n, hn⟩ : ∃ n, s.txBuf.length - s.txPtr = n + 1 := Nat.exists_eq_add_one.mpr (by omega)
  rw [hn, List.replicate_succ', List.append_assoc] at hq
  rw [hn]
  have hbyte : s.txBuf[s.txPtr + n]? = some s.txBuf[s.txPtr + n] := List.getElem?_eq_getElem (by omega)
  have hdrop : (s.txBuf.drop s.txPtr).take n ++ [s.txBuf[s.txPtr + n]] = s.txBuf.drop s.txPtr := by
    rw [← take_drop_succ, List.take_of_length_le (by rw [List.length_drop]; omega)]
  have hlast := step_txAccept_last (s := afterAccepts s n (.txAccept :: rest)) hr hs
    (show s.txPtr + n + 1 = s.txBuf.length by omega) hbyte rfl
  have hrun := run_trans n 1 _ _ _ (run_accepts n hr hs (by omega) hq) (run_one _ _ hlast)
  simpa only [afterAccepts, List.append_assoc, hdrop] using hrun

theorem step_txError {e : ErrVal} (hr : s.inReset = false) (hq : s.sched = .txError e :: rest) :
    step s = .next (txError e { s with sched := rest }) := step_move s _ rest hr hq

theorem txError_of_transmit (e : ErrVal) (hs : s.frState = .transmit) : txError e s = halt (.writeError e) s := by
  simp only [txError, hs]

theorem txError_of_ne (e : ErrVal) (hs : s.frState ≠ .transmit) : txError e s = s := by
  cases h : s.frState <;> simp_all [txError]

/-- Settles O39: the error halts the block. -/
theorem transmitErrorHalts : Obligations.TransmitErrorHalts := by
  intro s e rest hr hs hq
  rw [step_txError hr hq, txError_of_transmit (s := { s with sched := rest }) e hs]
  exact ⟨_, rfl, rfl, rfl, rfl, rfl, rfl, firstCause_eq _ _⟩

/-! ## The settle wait (R255) -/

theorem step_usTick_settle (hr : s.inReset = false) (hs : s.frState = .settle) (hq : s.sched = .usTick :: rest) :
    step s = .next (settleTick { s with sched := rest }) := by
  rw [step_usTick hr hq]
  simp only [usTick, hs]

theorem step_settle_of_ne (hr : s.inReset = false) (hs : s.frState = .settle) (hne : s.settleUs + 1 ≠ tSilent s.cfg)
    (hq : s.sched = .usTick :: rest) : step s = .next { s with sched := rest, settleUs := s.settleUs + 1 } :=
  (step_usTick_settle hr hs hq).trans (congrArg Host.Outcome.next (if_neg hne))

theorem step_settle_of_eq (hr : s.inReset = false) (hs : s.frState = .settle) (hlimit : s.settleUs + 1 = tSilent s.cfg)
    (hq : s.sched = .usTick :: rest) :
    step s = .next (frameDone { s with sched := rest, settleUs := s.settleUs + 1 }) :=
  (step_usTick_settle hr hs hq).trans (congrArg Host.Outcome.next (if_pos hlimit))

/-- The state after `k` ticks of the settle wait that do not end it. -/
def afterWait (s : State) (k : Nat) (sched : List Move) : State :=
  { s with sched := sched, settleUs := BitVec.ofNat 32 k }

/-- Ticks that do not end the settle wait only count. -/
theorem run_wait (n : Nat) (hr : s.inReset = false) (hs : s.frState = .settle) (h0 : s.settleUs = 0)
    (hn : n < (tSilent s.cfg).toNat) (hq : s.sched = List.replicate n .usTick ++ rest) :
    runTo n s (afterWait s n rest) := by
  have hrun := run_moves .usTick (afterWait s) n rest (fun k hk sched => ?_)
  · have hstart : afterWait s 0 (List.replicate n .usTick ++ rest) = s := by
      rw [← hq, afterWait, show BitVec.ofNat 32 0 = s.settleUs from h0.symm]
    rwa [hstart] at hrun
  · have hne : BitVec.ofNat 32 k + 1 ≠ tSilent s.cfg := fun h => by bv_omega
    have htick : BitVec.ofNat 32 k + 1 = BitVec.ofNat 32 (k + 1) := by bv_omega
    rw [step_settle_of_ne (s := afterWait s k _) hr hs hne rfl]
    simp only [afterWait, htick]

/-- Settles O40: the last tick of the wait ends the frame. -/
theorem settleWaitsTSilentTicks : Obligations.SettleWaitsTSilentTicks := by
  intro s n rest hr hs h0 hq
  refine ⟨fun hn => run_wait n hr hs h0 hn hq, fun hn => ?_⟩
  obtain ⟨n, rfl⟩ : ∃ m, n = m + 1 := Nat.exists_eq_add_one.mpr (hn ▸ tSilent_pos s.cfg)
  rw [List.replicate_succ', List.append_assoc] at hq
  have hlimit : BitVec.ofNat 32 n + 1 = tSilent s.cfg := by bv_omega
  have hlast := step_settle_of_eq (s := afterWait s n (.usTick :: rest)) hr hs hlimit rfl
  refine ⟨_, run_trans n 1 _ _ _ (run_wait n hr hs h0 (by omega) hq) (run_one _ _ hlast), ?_⟩
  cases hf : s.final <;> simp [frameDone, afterWait, hf, emptyAcc]

/-! ## The halted block (R257, R291, R315) -/

/-- From `s` on nothing has changed but what a halted block still changes: the banks, the event queue with its overflow bit, the
deliveries, the host port's answer, and the mark that the receiver has ended. -/
def OnlyHostPort (s t : State) : Prop :=
  t = { s with
    banks := t.banks
    cbQueue := t.cbQueue
    fault := { s.fault with cbOverflow := t.fault.cbOverflow }
    delivered := t.delivered
    hostResp := t.hostResp
    rxEnded := t.rxEnded }

theorem OnlyHostPort.refl (s : State) : OnlyHostPort s s := rfl

theorem runHost_onlyHostPort (agent : Nat) (op : BitVec 3) (addr value : Word) (s : State) :
    ∃ t, runHost agent op addr value s = .next t ∧ OnlyHostPort s t := by
  rcases runHost_cases agent op addr value s with ⟨_, e⟩ | ⟨_, e⟩ <;> rw [e]
  · rcases execHost_cases op addr value with ⟨k, hk⟩ | ⟨k, hk⟩ <;> rw [hk]
    · obtain ⟨_, _, _, he⟩ := hostGet_shape k addr s
      exact ⟨_, rfl, by rw [he]; rfl⟩
    · obtain ⟨_, _, _, _, he⟩ := hostSet_shape k addr value s
      exact ⟨_, rfl, by rw [he]; rfl⟩
  · exact ⟨s, rfl, .refl s⟩

theorem cbTake_onlyHostPort (ev : CbEvent) (s : State) : OnlyHostPort s (cbTake ev s) := by
  unfold cbTake
  split <;> rfl

theorem rxByte_onlyHostPort (b : Byte) (hs : s.frState = .halted) : OnlyHostPort s (rxByte b s) := by
  unfold rxByte
  split
  · rfl
  · rw [enqueue_of_halted _ hs]
    rfl

theorem rxError_onlyHostPort (e : ErrVal) (hs : s.frState = .halted) : OnlyHostPort s (rxError e s) := by
  unfold rxError
  split
  · rfl
  · rw [enqueue_of_halted (s := { s with rxEnded := true }) _ hs]
    rfl

theorem runEngine_of_halted (q : Option Nat) (hs : s.frState = .halted) : runEngine q s = .next s := by
  simp only [runEngine, engineTurn, hs]

/-- Every move of a halted block but the assertion of reset. -/
theorem runMove_of_halted (m : Move) (hm : m ≠ .resetAssert) (hs : s.frState = .halted) :
    ∃ t, runMove m s = .next t ∧ OnlyHostPort s t := by
  have htransmit : s.frState ≠ .transmit := by simp [hs]
  cases m with
  | engine q => exact ⟨s, runEngine_of_halted q hs, .refl s⟩
  | rxByte b => exact ⟨_, rfl, rxByte_onlyHostPort b hs⟩
  | rxError e => exact ⟨_, rfl, rxError_onlyHostPort e hs⟩
  | usTick => exact ⟨s, congrArg Host.Outcome.next (usTick_of_uncounted (by simp [hs]) (by simp [hs])), .refl s⟩
  | txAccept => exact ⟨s, by simp only [runMove, input, txAccept, txOffer_eq_none htransmit], .refl s⟩
  | txError e => exact ⟨s, congrArg Host.Outcome.next (txError_of_ne e htransmit), .refl s⟩
  | hostReq agent op addr value => exact runHost_onlyHostPort agent op addr value s
  | cbTake ev => exact ⟨_, rfl, cbTake_onlyHostPort ev s⟩
  | resetAssert => exact absurd rfl hm
  | cfgWrite => exact ⟨s, rfl, .refl s⟩
  | resetRelease => exact ⟨s, rfl, .refl s⟩

/-- Settles O41: the step is a move other than the assertion of reset, or an idle turn of the engine, and a halted block stays so. -/
theorem haltedIsLeftOnlyByReset : Obligations.HaltedIsLeftOnlyByReset := by
  intro s t hs hr hhead e
  have hkeeps : OnlyHostPort { s with sched := s.sched.tail } t := by
    cases hq : s.sched with
    | nil =>
      rw [step_idle s hr hq, runEngine_of_halted none hs] at e
      cases e
      rw [List.tail_nil, ← hq]
      rfl
    | cons m rest =>
      have hm : m ≠ .resetAssert := fun h => hhead (by rw [hq, h]; rfl)
      obtain ⟨u, hu, hkeeps⟩ := runMove_of_halted (s := { s with sched := rest }) m hm hs
      rw [step_move s m rest hr hq, hu] at e
      cases e
      exact hkeeps
  have hhalted : t.frState = .halted := by rw [hkeeps]; exact hs
  exact ⟨txOffer_eq_none (by simp [hhalted]), hkeeps⟩

end Sys2Proof.Machine
end

section
/-! SUPPORT. The engine's turns on a frame in `PROCESS` (R69, R252): a turn that is cut short and resumed ends as one that runs through,
and a turn of the decoded frame is its instruction's meaning. -/

namespace Sys2Proof.Machine

/-! ## No internal step looks at the length of the turn -/

section
variable (q : Option Nat) (s : State)

theorem emitIf_setQuantum (k : BankId) (kind : CbKind) (a : Nat) (v : Word) :
    emitIf k kind a v (s.setQuantum q) = (emitIf k kind a v s).setQuantum q := by
  unfold emitIf emit
  rw [apply_ite (State.setQuantum q), apply_ite (State.setQuantum q)]
  rfl

theorem memRead_setQuantum (k : BankId) (a : Nat) :
    memRead k a (s.setQuantum q) = ((memRead k a s).1, (memRead k a s).2.setQuantum q) := by
  rcases memRead_cases k a s with ⟨ha, e⟩ | ⟨ha, e⟩ <;> rw [e]
  · rw [← emitIf_setQuantum]
    exact if_pos ha
  · exact if_neg ha.not_gt

theorem memWrite_setQuantum (k : BankId) (a : Nat) (v : Word) :
    memWrite k a v (s.setQuantum q) = ((memWrite k a v s).1, (memWrite k a v s).2.setQuantum q) := by
  rcases memWrite_cases k a v s with ⟨ha, e⟩ | ⟨ha, e⟩ <;> rw [e]
  · rw [← emitIf_setQuantum]
    exact if_pos ha
  · exact if_neg ha.not_gt

theorem dispatchStart_setQuantum (id func : Byte) (pf : Bool) (u : HandlerUnit) :
    dispatchStart id func pf u (s.setQuantum q) = (dispatchStart id func pf u s).setQuantum q := by
  by_cases ha : Addressed s.cfg id
  · cases pf with
    | true =>
      rw [dispatchStart_parseFailed func u ha]
      exact dispatchStart_parseFailed func u ha
    | false =>
      by_cases hf : Enabled s.cfg func
      · obtain ⟨hraise, hpass⟩ := dispatchStart_handled id func u s ⟨ha, hf⟩
        obtain ⟨hraise', hpass'⟩ := dispatchStart_handled id func u (s.setQuantum q) ⟨ha, hf⟩
        cases hcheck : u.check s.cfg with
        | some code => rw [hraise code hcheck, hraise' code hcheck]; rfl
        | none => rw [hpass hcheck, hpass' hcheck]; rfl
      · rw [dispatchStart_absent u ha hf]
        exact dispatchStart_absent u ha hf
  · rw [dispatchStart_unaddressed func pf u ha]
    exact dispatchStart_unaddressed func pf u ha

theorem dispatchFinish_setQuantum (id : Byte) :
    dispatchFinish id (s.setQuantum q) = (dispatchFinish id s).setQuantum q := by
  unfold dispatchFinish
  split <;> rfl

theorem frameDone_setQuantum : frameDone (s.setQuantum q) = (frameDone s).setQuantum q := by
  unfold frameDone
  rw [apply_ite (State.setQuantum q)]
  rfl

theorem endProcess_setQuantum : endProcess (s.setQuantum q) = (endProcess s).setQuantum q := by
  unfold endProcess
  rw [setQuantum_resp]
  cases getAdu s.resp with
  | bytes t => rfl
  | fail why => exact frameDone_setQuantum q s

end

/-- A function unit whose accesses and builder call do not look at the length of the turn. -/
structure HandlerUnit.IgnoresQuantum (u : HandlerUnit) : Prop where
  access : ∀ i buf q s, u.access i buf (s.setQuantum q) = (u.access i buf s).setQuantum q
  done : ∀ buf q s, u.done buf (s.setQuantum q) = (u.done buf s).setQuantum q

theorem noUnit_ignoresQuantum : noUnit.IgnoresQuantum := ⟨fun _ _ _ _ => rfl, fun _ _ _ => rfl⟩

theorem readBits_ignoresQuantum (k : BankId) (addr qty : Word) : (readBits k addr qty).IgnoresQuantum where
  access i buf q s := by
    simp only [readBits, memRead_setQuantum]
    rfl
  done _ _ _ := rfl

theorem readWords_ignoresQuantum (k : BankId) (addr qty : Word) : (readWords k addr qty).IgnoresQuantum where
  access i buf q s := by
    simp only [readWords, memRead_setQuantum]
    rfl
  done _ _ _ := rfl

theorem writeSingle_ignoresQuantum (k : BankId) (addr arg value : Word) :
    (writeSingle k addr arg value).IgnoresQuantum where
  access i buf q s := by
    simp only [writeSingle, memWrite_setQuantum]
    split <;> rfl
  done _ _ _ := rfl

theorem writeMultiple_ignoresQuantum (k : BankId) (addr qty : Word) (check : Cfg → Option Byte) (n : Nat)
    (value : Nat → Word) : (writeMultiple k addr qty check n value).IgnoresQuantum where
  access i buf q s := by
    simp only [writeMultiple, memWrite_setQuantum]
    rfl
  done _ _ _ := rfl

theorem internalStep_setQuantum (id func : Byte) (pf : Bool) {u : HandlerUnit} (hu : u.IgnoresQuantum) (q : Option Nat)
    (s : State) : internalStep id func pf u (s.setQuantum q) = (internalStep id func pf u s).setQuantum q := by
  unfold internalStep
  rw [setQuantum_pos]
  cases s.pos with
  | decode => exact dispatchStart_setQuantum q s id func pf u
  | dispatch => exact dispatchStart_setQuantum q s id func pf u
  | access i buf =>
    dsimp only
    split
    · exact hu.access i buf q s
    · rw [hu.done]
      rfl
  | finish => exact dispatchFinish_setQuantum q s id
  | encode => exact endProcess_setQuantum q s

/-- Neither does a run of internal steps. -/
theorem advance_setQuantum {f : State → State} (hf : ∀ q s, f (s.setQuantum q) = (f s).setQuantum q) (q : Option Nat)
    (n : Nat) (s : State) : advance f n (s.setQuantum q) = (advance f n s).setQuantum q := by
  induction n generalizing s with
  | zero => rfl
  | succ n ih =>
    by_cases hs : s.frState = .process
    · rw [advance_process f n s hs, advance_process f n (s.setQuantum q) hs, hf, ih]
    · rw [advance_stop f _ s hs, advance_stop f _ (s.setQuantum q) hs]

/-! ## An unlimited turn is long enough -/

/-- The internal steps that a frame still needs at most, in a unit of `count` accesses (R252). -/
def stepsToEnd (count : Nat) (p : Pos) : Nat :=
  match p with
  | .decode => count + 4
  | .dispatch => count + 4
  | .access i _ => count - i + 3
  | .finish => 2
  | .encode => 1

theorem stepsToEnd_pos (count : Nat) (p : Pos) : 0 < stepsToEnd count p := by
  cases p <;> simp [stepsToEnd]

theorem stepsToEnd_le (count : Nat) (p : Pos) : stepsToEnd count p ≤ count + 4 := by
  cases p <;> simp [stepsToEnd]
  omega

theorem endProcess_frState_ne (s : State) : (endProcess s).frState ≠ .process := by
  rcases endProcess_cases s with ⟨_, _, e⟩ | ⟨_, _, _, e⟩ | ⟨_, _, _, e⟩ <;> simp [e]

theorem dispatchStart_stepsToEnd (id func : Byte) (pf : Bool) (u : HandlerUnit) (s : State) :
    stepsToEnd u.count (dispatchStart id func pf u s).pos < u.count + 4 := by
  rcases dispatchStart_cases id func pf u s with
    ⟨_, e⟩ | ⟨_, _, e⟩ | ⟨_, _, _, e⟩ | ⟨_, _, _, code, _, e⟩ | ⟨_, _, _, _, e⟩ <;> rw [e] <;> simp [stepsToEnd]

/-- Every internal step ends the frame or brings its end nearer. -/
theorem internalStep_stepsToEnd (id func : Byte) (pf : Bool) {u : HandlerUnit} (hu : u.Advances) (s : State) :
    (internalStep id func pf u s).frState ≠ .process ∨
      stepsToEnd u.count (internalStep id func pf u s).pos < stepsToEnd u.count s.pos := by
  unfold internalStep
  cases s.pos with
  | decode => exact .inr (dispatchStart_stepsToEnd id func pf u s)
  | dispatch => exact .inr (dispatchStart_stepsToEnd id func pf u s)
  | access i buf =>
    right
    dsimp only
    split
    · next hi =>
      rcases hu i buf s hi with hp | ⟨buf', hp⟩ <;> rw [hp] <;> simp only [stepsToEnd] <;> omega
    · simp [stepsToEnd]
  | finish => exact .inr (by simp [stepsToEnd])
  | encode => exact .inl (endProcess_frState_ne s)

/-- A turn with a step for each that the frame may need runs it through. -/
theorem advance_ends (id func : Byte) (pf : Bool) {u : HandlerUnit} (hu : u.Advances) (n : Nat) (s : State)
    (hn : stepsToEnd u.count s.pos ≤ n) : (advance (internalStep id func pf u) n s).frState ≠ .process := by
  induction n generalizing s with
  | zero => exact absurd (stepsToEnd_pos u.count s.pos) (by omega)
  | succ n ih =>
    by_cases hs : s.frState = .process
    · rw [advance_process _ n s hs]
      rcases internalStep_stepsToEnd id func pf hu s with hended | hnearer
      · rwa [advance_stop _ n _ hended]
      · exact ih _ (by omega)
    · rwa [advance_stop _ _ s hs]

/-! ## Cut and resumed -/

/-- A turn of `n` internal steps and then an unlimited one end as an unlimited one does (R69, R252). -/
theorem process_resumed (id func : Byte) (pf : Bool) {u : HandlerUnit} (hq : u.IgnoresQuantum) (hu : u.Advances)
    (n : Nat) (s : State) :
    process id func pf u ((process id func pf u (s.setQuantum (some n))).setQuantum none) =
      process id func pf u (s.setQuantum none) := by
  have hcut : (process id func pf u (s.setQuantum (some n))).setQuantum none =
      advance (internalStep id func pf u) n (s.setQuantum none) :=
    (advance_setQuantum (internalStep_setQuantum id func pf hq) none n (s.setQuantum (some n))).symm
  have hended := advance_ends id func pf hu (u.count + 4) (s.setQuantum none) (stepsToEnd_le _ _)
  calc process id func pf u ((process id func pf u (s.setQuantum (some n))).setQuantum none)
      = advance (internalStep id func pf u) (u.count + 4)
          (advance (internalStep id func pf u) n (s.setQuantum none)) :=
        congrArg (advance (internalStep id func pf u) (u.count + 4)) hcut
    _ = advance (internalStep id func pf u) n
          (advance (internalStep id func pf u) (u.count + 4) (s.setQuantum none)) := by
        rw [← advance_add, Nat.add_comm, advance_add]
    _ = advance (internalStep id func pf u) (u.count + 4) (s.setQuantum none) := advance_stop _ _ _ hended

/-- A wire request is handled by a unit that does not look at the turn's length, and whose accesses go forward (R110, R168). -/
theorem exec_of_wireRequest_resumable {i : Instr} {id func : Byte} (h : WireRequest i id func) :
    ∃ u : HandlerUnit, u.IgnoresQuantum ∧ u.Advances ∧ ∀ s, exec i s = .next (process id func false u s) := by
  rcases h with ⟨a, q, rfl, rfl⟩ | ⟨a, q, rfl, rfl⟩ | ⟨a, q, rfl, rfl⟩ | ⟨a, q, rfl, rfl⟩ | ⟨a, v, rfl, rfl⟩ |
    ⟨a, v, rfl, rfl⟩ | ⟨a, q, d, rfl, rfl⟩ | ⟨a, q, d, rfl, rfl⟩ | rfl
  · exact ⟨_, readBits_ignoresQuantum _ _ _, readBits_advances _ _ _, fun _ => rfl⟩
  · exact ⟨_, readBits_ignoresQuantum _ _ _, readBits_advances _ _ _, fun _ => rfl⟩
  · exact ⟨_, readWords_ignoresQuantum _ _ _, readWords_advances _ _ _, fun _ => rfl⟩
  · exact ⟨_, readWords_ignoresQuantum _ _ _, readWords_advances _ _ _, fun _ => rfl⟩
  · exact ⟨_, writeSingle_ignoresQuantum _ _ _ _, writeSingle_advances _ _ _ _, fun _ => rfl⟩
  · exact ⟨_, writeSingle_ignoresQuantum _ _ _ _, writeSingle_advances _ _ _ _, fun _ => rfl⟩
  · exact ⟨_, writeMultiple_ignoresQuantum _ _ _ _ _ _, writeMultiple_advances _ _ _ _ _ _, fun _ => rfl⟩
  · exact ⟨_, writeMultiple_ignoresQuantum _ _ _ _ _ _, writeMultiple_advances _ _ _ _ _ _, fun _ => rfl⟩
  · exact ⟨_, noUnit_ignoresQuantum, noUnit_advances, fun _ => rfl⟩

/-- Settles O22: no internal step looks at the turn's length, and an unlimited turn is long enough from every position. -/
theorem preemptedFrameResumesToSameEnd : Obligations.PreemptedFrameResumesToSameEnd := by
  intro i id func s t n hi e
  obtain ⟨u, hquantum, hadv, hexec⟩ := exec_of_wireRequest_resumable hi
  rw [hexec] at e
  cases e
  rw [hexec, hexec, process_resumed id func false hquantum hadv]

/-! ## The turn of a decoded frame -/

theorem step_engine_instr {s : State} {q : Option Nat} {rest : List Move} {bytes : List Byte} {i : Instr}
    (hr : s.inReset = false) (hs : s.frState = .process) (hq : s.sched = .engine q :: rest)
    (hframe : s.frame = frameOf bytes) (hi : decode (.frame bytes) = .instr i) :
    step s = exec i (decodeStage ({ s with sched := rest }.setQuantum q)) := by
  rw [step_move s _ rest hr hq]
  refine runEngine_instr (s := { s with sched := rest }) q hs ?_
  rwa [show ({ s with sched := rest } : State).frame = frameOf bytes from hframe]

theorem decodeStage_unlimited {s : State} (hp : s.pos = .decode) (hq : s.quantum = none) :
    decodeStage s = { s with req := decodeRequest s.frame, pos := .dispatch } := by
  simp only [decodeStage, hp, hq]

theorem decodeStage_limited {s : State} {n : Nat} (hp : s.pos = .decode) (hq : s.quantum = some (n + 1)) :
    decodeStage s = { s with req := decodeRequest s.frame, pos := .dispatch, quantum := some n } := by
  simp only [decodeStage, hp, hq]

/-- Settles O50: the turn is the instruction's meaning after the decode step, which is due at its own position alone. -/
theorem stepRunsTheDecodedFrame : Obligations.StepRunsTheDecodedFrame := by
  intro s bytes i q rest hr hs hq hframe hi
  rw [step_engine_instr hr hs hq hframe hi]
  refine ⟨fun hp hnone => ?_, fun n hp hsome => ?_, fun hp => ?_⟩
  · subst hnone
    exact congrArg _ (decodeStage_unlimited hp rfl)
  · subst hsome
    exact congrArg _ (decodeStage_limited hp rfl)
  · exact congrArg _ (decodeStage_of_decoded hp)

end Sys2Proof.Machine
end

section
/-! SUPPORT. The host port (47_host_port.md): what a Get and a Set answer and leave unchanged, a Set with a full event queue, the
step of a host request, and the obligations on them. -/

namespace Sys2Proof.Machine

/-! ## What a host operation leaves unchanged (R291) -/

/-- The banks, the event queue, its overflow bit and the answer are all that a host operation may change. -/
theorem hostKeeps_of_hostPort (s : State) (b : Banks) (q : List CbEvent) (o : Bool) (r : HostResp) :
    HostKeeps s { s with banks := b, cbQueue := q, fault := { s.fault with cbOverflow := o }, hostResp := some r } :=
  { CoreKeeps.refl s with
    frState := rfl
    pos := rfl
    resp := rfl
    dispOut := rfl
    txBuf := rfl
    txPtr := rfl
    receiver := { ReceiverKeeps.refl s with } }

theorem hostGet_hostKeeps (k : BankId) (addr : Word) (s : State) : HostKeeps s (hostGet k addr s) := by
  obtain ⟨q, o, r, e⟩ := hostGet_shape k addr s
  rw [e]
  exact hostKeeps_of_hostPort s s.banks q o r

theorem hostSet_hostKeeps (k : BankId) (addr value : Word) (s : State) : HostKeeps s (hostSet k addr value s) := by
  obtain ⟨b, q, o, r, e⟩ := hostSet_shape k addr value s
  rw [e]
  exact hostKeeps_of_hostPort s b q o r

/-! ## Gets -/

/-- Settles O25: the Get is `MemRead` with its value as the answer. -/
theorem hostGetAnswersCell : Obligations.HostGetAnswersCell := by
  intro i k addr s hi
  obtain ⟨hin, hout, hbanks⟩ := memReadRule k addr.toNat s
  refine ⟨hostGet k addr s, exec_of_hostGetOp hi s, hostGet_hostKeeps k addr s, hbanks, fun ha => ⟨?_, ?_⟩,
    fun ha => ⟨?_, ?_⟩⟩
  · rw [hostGet_hostResp, if_pos ha]
  · obtain ⟨-, hevents⟩ := hin ha
    exact hevents
  · rw [hostGet_hostResp, if_neg (Nat.not_lt.mpr ha)]
  · rw [hostGet, hout ha]
    exact ⟨rfl, rfl⟩

/-! ## Sets -/

/-- A cell of the bank can hold the value of R292 (R65). -/
theorem hostValue_holds (k : BankId) (value : Word) (h : k = .di ∨ k = .coil) :
    hostValue k value = 0 ∨ hostValue k value = 1 := by
  have bit (b : Bool) : bitWord b = 0 ∨ bitWord b = 1 := by cases b <;> decide
  rcases h with rfl | rfl
  · exact bit _
  · exact bit _

/-- A Set answers whether `MemWrite` stored. -/
theorem hostSet_hostResp (k : BankId) (addr value : Word) (s : State) :
    (hostSet k addr value s).hostResp = some (if addr.toNat < capOf s.cfg k then .ok else .err) := by
  unfold hostSet memWrite
  split <;> rfl

/-- Settles O26: the Set is `MemWrite` of a value that the cell can hold, with its success as the answer. -/
theorem hostSetStoresValue : Obligations.HostSetStoresValue := by
  intro i k addr value stored s hi
  obtain rfl := hostSetOp_stored hi
  obtain ⟨hin, hout⟩ := memWriteRule k addr.toNat (hostValue k value) s (hostValue_holds k value)
  refine ⟨hostSet k addr value s, exec_of_hostSetOp hi s, hostSet_hostKeeps k addr value s, fun ha => ⟨?_, ?_⟩,
    fun ha => ⟨?_, ?_⟩⟩
  · rw [hostSet_hostResp, if_pos ha]
  · obtain ⟨-, hcells, hevents⟩ := hin ha
    exact ⟨hcells, hevents⟩
  · rw [hostSet_hostResp, if_neg (Nat.not_lt.mpr ha)]
  · rw [hostSet, hout ha]
    exact ⟨rfl, rfl, rfl⟩

/-! ## A full event queue (R314) -/

/-- An event that finds no room is lost, and only the sticky bit tells of it (R281, R314). -/
theorem emit_of_full {s : State} {d : Nat} (e : CbEvent) (hd : s.params.cbDepth = some d) (hfull : d ≤ s.cbQueue.length) :
    emit e s = { s with fault := { s.fault with cbOverflow := true } } := by
  rcases emit_cases e s with ⟨hroom, _⟩ | ⟨_, he⟩
  · have hlt := (fits_iff _ _).mp hroom d hd
    omega
  · exact he

/-- A store to a cell with a callback, while the event queue is full. -/
theorem memWrite_of_full {k : BankId} {a : Nat} {s : State} {d : Nat} (v : Word) (ha : a < capOf s.cfg k)
    (hcb : cbEnabled s.cfg k a = true) (hd : s.params.cbDepth = some d) (hfull : d ≤ s.cbQueue.length) :
    memWrite k a v s =
      (true, { s with banks := bankSet s.banks k a v, fault := { s.fault with cbOverflow := true } }) := by
  rcases memWrite_cases k a v s with ⟨_, e⟩ | ⟨hout, _⟩
  · rw [e, emitIf, if_pos hcb, emit_of_full (s := { s with banks := bankSet s.banks k a v }) _ hd hfull]
  · omega

/-- Settles O28: the store is made, and its event finds no room. -/
theorem fullEventQueueLosesOnlyTheEvent : Obligations.FullEventQueueLosesOnlyTheEvent := by
  intro i k addr value stored s d hi ha hcb hd hfull
  have hcell : (hostSet k addr value s).cell k addr.toNat = stored := by
    rw [hostSet_cell, if_pos ⟨ha, rfl, rfl⟩, hostSetOp_stored hi]
  have hwrite := memWrite_of_full (hostValue k value) ha hcb hd hfull
  refine ⟨hostSet k addr value s, exec_of_hostSetOp hi s, ?_, hcell, ?_, ?_, (hostSet_hostKeeps k addr value s).frState⟩
  · rw [hostSet_hostResp, if_pos ha]
  · rw [hostSet, hwrite]
    rfl
  · rw [hostSet, hwrite]
    rfl

/-! ## The step of a host request -/

/-- Settles O51: the move is the request, and an agent exists if its number is below `N_HOST`. -/
theorem stepServesTheHostRequest : Obligations.StepServesTheHostRequest := by
  intro s agent op addr value i rest hr hq hi
  obtain rfl : decodeHost op addr value = i := Decoded.instr.inj hi
  have hstep : step s = runHost agent op addr value { s with sched := rest } := step_move s _ rest hr hq
  rw [hstep]
  rcases runHost_cases agent op addr value { s with sched := rest } with ⟨hfits, e⟩ | ⟨hfits, e⟩
  · refine ⟨fun _ => e, ?_⟩
    rintro ⟨n, hn, hle⟩
    have hlt := (fits_iff _ _).mp hfits n hn
    omega
  · refine ⟨fun hlt => ?_, fun _ => e⟩
    exact absurd (hfits.symm.trans ((fits_iff _ _).mpr hlt)) Bool.false_ne_true

/-! ## The event consumer -/

/-- Settles O44: `List.erase` removes one copy of the event. -/
theorem consumerTakesOneQueuedEvent : Obligations.ConsumerTakesOneQueuedEvent := by
  intro s ev rest hr hq hmem
  refine ⟨s.cbQueue.erase ev, (List.perm_cons_erase hmem).symm, ?_⟩
  rw [step_move s _ rest hr hq]
  exact congrArg Host.Outcome.next (if_pos hmem)

end Sys2Proof.Machine
end

section
/-! SUPPORT. Precise exceptions (R310): only the dispatcher's step raises an exception for a handled frame, and it does so before the
first access; a single write is handled as the multiple write of one cell. -/

namespace Sys2Proof.Machine

/-! ## The last internal step -/

@[simp] theorem endProcess_cbQueue (s : State) : (endProcess s).cbQueue = s.cbQueue := by
  rcases endProcess_cases s with ⟨_, _, e⟩ | ⟨_, _, _, e⟩ | ⟨_, _, _, e⟩ <;> simp [e]

@[simp] theorem endProcess_fault (s : State) : (endProcess s).fault = s.fault := by
  rcases endProcess_cases s with ⟨_, _, e⟩ | ⟨_, _, _, e⟩ | ⟨_, _, _, e⟩ <;> simp [e]

@[simp] theorem endProcess_resp (s : State) : (endProcess s).resp = s.resp := by
  rcases endProcess_cases s with ⟨_, _, e⟩ | ⟨_, _, _, e⟩ | ⟨_, _, _, e⟩ <;> simp [e]

@[simp] theorem endProcess_pos (s : State) : (endProcess s).pos = s.pos := by
  rcases endProcess_cases s with ⟨_, _, e⟩ | ⟨_, _, _, e⟩ | ⟨_, _, _, e⟩ <;> simp [e]

/-! ## Units that raise no exception once their check has passed -/

/-- A function unit whose accesses and builder call leave the exception code alone. -/
structure HandlerUnit.NeverRaises (u : HandlerUnit) : Prop where
  access : ∀ i buf s, (u.access i buf s).resp.err = s.resp.err
  done : ∀ buf s, (u.done buf s).resp.err = s.resp.err

theorem noUnit_neverRaises : noUnit.NeverRaises := ⟨fun _ _ _ => rfl, fun _ _ => rfl⟩

theorem HandlerUnit.Reads.neverRaises {u : HandlerUnit} {k : BankId} {addr qty : Word}
    {pack : List Byte → Nat → Word → List Byte} (hu : u.Reads k addr qty pack) : u.NeverRaises where
  access i buf s := by simp [hu.access]
  done buf s := by simp [hu.done]

theorem writeMultiple_neverRaises (k : BankId) (addr qty : Word) (check : Cfg → Option Byte) (n : Nat)
    (value : Nat → Word) : (writeMultiple k addr qty check n value).NeverRaises where
  access i buf s := by simp [writeMultiple]
  done _ _ := rfl

/-- A handled wire request runs as such a unit does (R185, R205). -/
theorem exec_of_handled {i : Instr} {id func : Byte} {s : State} (hi : WireRequest i id func) (hready : Ready s)
    (hhandled : Handled s id func) :
    ∃ u : HandlerUnit, u.NeverRaises ∧ u.Advances ∧ exec i s = .next (process id func false u s) := by
  have single (k : BankId) (a arg value : Word)
      (hexec : exec i s = .next (process id func false (writeSingle k a arg value) s)) :
      ∃ u : HandlerUnit, u.NeverRaises ∧ u.Advances ∧ exec i s = .next (process id func false u s) :=
    ⟨writeOne k a arg value, writeMultiple_neverRaises _ _ _ _ _ _, writeMultiple_advances _ _ _ _ _ _,
      hexec.trans (congrArg _ (process_writeSingle hready hhandled k a arg value))⟩
  rcases hi with ⟨a, q, rfl, rfl⟩ | ⟨a, q, rfl, rfl⟩ | ⟨a, q, rfl, rfl⟩ | ⟨a, q, rfl, rfl⟩ | ⟨a, v, rfl, rfl⟩ |
    ⟨a, v, rfl, rfl⟩ | ⟨a, q, d, rfl, rfl⟩ | ⟨a, q, d, rfl, rfl⟩ | rfl
  · exact ⟨_, (readBits_reads _ _ _).neverRaises, readBits_advances _ _ _, rfl⟩
  · exact ⟨_, (readBits_reads _ _ _).neverRaises, readBits_advances _ _ _, rfl⟩
  · exact ⟨_, (readWords_reads _ _ _).neverRaises, readWords_advances _ _ _, rfl⟩
  · exact ⟨_, (readWords_reads _ _ _).neverRaises, readWords_advances _ _ _, rfl⟩
  · exact single .coil a v (coilValue v) rfl
  · exact single .hr a v v rfl
  · exact ⟨_, writeMultiple_neverRaises _ _ _ _ _ _, writeMultiple_advances _ _ _ _ _ _, rfl⟩
  · exact ⟨_, writeMultiple_neverRaises _ _ _ _ _ _, writeMultiple_advances _ _ _ _ _ _, rfl⟩
  · exact ⟨_, noUnit_neverRaises, noUnit_advances, rfl⟩

/-! ## A handled frame that has passed its check -/

/-- The frame is past the dispatcher's first step, and no exception has been raised. -/
def Unexcepted (s : State) : Prop := s.resp.err = 0 ∧ (InHandler s.pos ∨ s.pos = .encode)

theorem internalStep_unexcepted (id func : Byte) {u : HandlerUnit} (hu : u.NeverRaises) (hadv : u.Advances) (s : State)
    (h : Unexcepted s) : Unexcepted (internalStep id func false u s) := by
  obtain ⟨herr, (hp | ⟨i, buf, hp⟩) | hp⟩ := h
  · rw [internalStep_finish _ _ _ _ _ hp]
    exact ⟨by simpa using herr, .inr (by simp)⟩
  · by_cases hi : i < u.count
    · rw [internalStep_access _ _ _ _ _ _ _ hp hi]
      exact ⟨(hu.access i buf s).trans herr, .inl (hadv.inHandler buf s hi)⟩
    · rw [internalStep_done _ _ _ _ _ _ _ hp (Nat.le_of_not_lt hi)]
      exact ⟨(hu.done buf s).trans herr, .inl (.inl rfl)⟩
  · rw [internalStep_encode _ _ _ _ _ hp]
    exact ⟨by simpa using herr, .inr (by simpa using hp)⟩

/-- A handled frame that ends with an exception code got it from its unit's check, before the first access (R310). -/
theorem process_handled_precise {id func : Byte} {u : HandlerUnit} {s : State} (hu : u.NeverRaises) (hadv : u.Advances)
    (hready : Ready s) (hhandled : Handled s id func) (herr : (process id func false u s).resp.err ≠ 0) :
    (process id func false u s).banks = s.banks ∧ QueueKeeps s (process id func false u s) := by
  obtain ⟨hraises, hpasses⟩ := dispatchStart_handled id func u s hhandled
  have hprocess := process_ready id func false u s hready
  cases hcheck : u.check s.cfg with
  | some code =>
    have hend : process id func false u s = endProcess (dispatchFinish id (raise code (scaffold id func s))) := by
      rw [hprocess, hraises code hcheck]
      exact advance_finish _ _ _ _ _ _ (by omega) hready.1 rfl
    simp [hend, QueueKeeps, raise]
  | none =>
    have hstart : Unexcepted ((scaffold id func s).setPos (.access 0 u.init)) := ⟨rfl, .inl (.inr ⟨0, u.init, rfl⟩)⟩
    obtain ⟨hzero, -⟩ := advance_keeps Unexcepted _ (fun t _ => internalStep_unexcepted id func hu hadv t) (u.count + 3) _
      hstart
    rw [hprocess, hpasses hcheck] at herr
    exact absurd hzero herr

/-- Settles O14: an unaddressed request and one without a handler touch nothing (O10, O12); a handled one is precise. -/
theorem exceptionsArePrecise : Obligations.ExceptionsArePrecise := by
  intro i id func s t hi hready e herr
  by_cases ha : Addressed s.cfg id
  · by_cases hf : Enabled s.cfg func
    · obtain ⟨u, hu, hadv, hexec⟩ := exec_of_handled hi hready ⟨ha, hf⟩
      cases hexec.symm.trans e
      exact process_handled_precise hu hadv hready ⟨ha, hf⟩ herr
    · obtain ⟨u, hu, -, -, hbanks, hqueue⟩ := absentHandlerAnswersException1 i id func s hi hready ha hf
      cases hu.symm.trans e
      exact ⟨hbanks, hqueue⟩
  · obtain ⟨hself, hbroadcast⟩ := not_or.mp ha
    obtain ⟨u, hu, -, -, -, -, hbanks, hqueue⟩ := unaddressedRequestIsIgnored i id func s hi hready hself hbroadcast
    cases hu.symm.trans e
    exact ⟨hbanks, hqueue⟩

end Sys2Proof.Machine
end

section
/-! SUPPORT. Fatal causes (60_exceptions.md): the receive overrun, that the first cause is kept move by move, and the obligations on
them. -/

namespace Sys2Proof.Machine

variable {s t u : State}

/-! ## The receive overrun (R313) -/

theorem enqueue_of_full (item : RxItem) (hs : s.frState ≠ .halted)
    (hfull : fits s.params.rxFifoDepth s.rxFifo.length = false) : enqueue item s = overrun s := by
  rcases enqueue_cases item s with ⟨hhalted, _⟩ | ⟨_, hroom, _⟩ | ⟨_, _, e⟩
  · exact absurd hhalted hs
  · exact absurd (hfull.symm.trans hroom) Bool.false_ne_true
  · exact e

/-- An item has been lost: the run ends at once in `RECEIVE`, after the frame in progress elsewhere (R313). -/
structure Overrun (s t : State) : Prop where
  flag : t.fault.rxOverrun = true
  banks : t.banks = s.banks
  acc : t.acc = s.acc
  cause : t.exitCause = if s.exitCause = .none then .rxOverrun else s.exitCause
  atOnce : s.frState = .receive → t.frState = .halted ∧ t.rxFifo = []
  later : s.frState ≠ .receive → t.frState = s.frState ∧ t.rxFifo = s.rxFifo ∧ t.final = true

theorem overrun_overrun (hs : s.frState ≠ .halted) : Overrun s (overrun s) := by
  rcases overrun_cases s with ⟨hhalted, _⟩ | ⟨hreceive, -⟩ | ⟨_, hbusy, e⟩
  · exact absurd hhalted hs
  · rw [overrun_receive hreceive]
    exact
      { flag := rfl
        banks := rfl
        acc := rfl
        cause := firstCause_eq _ _
        atOnce := fun _ => ⟨rfl, rfl⟩
        later := fun hne => absurd hreceive hne }
  · rw [e]
    exact
      { flag := rfl
        banks := rfl
        acc := rfl
        cause := firstCause_eq _ _
        atOnce := fun hreceive => absurd hreceive hbusy
        later := fun _ => ⟨rfl, rfl, rfl⟩ }

/-- Settles O37: a byte or an error is delivered alike, and finds the queue full. -/
theorem receiveOverrunEndsTheRun : Obligations.ReceiveOverrunEndsTheRun := by
  intro s m d rest hr hlive hm hq hd hfull hs
  have hfits : fits s.params.rxFifoDepth s.rxFifo.length = false := by
    rw [hd]
    exact decide_eq_false (Nat.not_lt.mpr hfull)
  have hdelivered : ∃ (item : RxItem) (ended : Bool),
      step s = .next (enqueue item { s with sched := rest, rxEnded := ended }) := by
    rcases hm with ⟨b, rfl⟩ | ⟨e, rfl⟩
    · refine ⟨.byte b, s.rxEnded, ?_⟩
      rw [step_rxByte hr hq, rxByte_of_live (s := { s with sched := rest }) b hlive]
    · refine ⟨.err e, true, ?_⟩
      rw [step_rxError hr hq, rxError_of_live (s := { s with sched := rest }) e hlive]
  obtain ⟨item, ended, e⟩ := hdelivered
  rw [enqueue_of_full (s := { s with sched := rest, rxEnded := ended }) item hs hfits] at e
  obtain ⟨hflag, hbanks, hacc, hcause, hatOnce, hlater⟩ :=
    overrun_overrun (s := { s with sched := rest, rxEnded := ended }) hs
  exact ⟨_, e, hflag, hbanks, hacc, hcause, hatOnce, hlater⟩

/-! ## Once recorded, a cause is kept (R307) -/

/-- A fatal cause that stands in `s` stands in `t`. -/
def CauseKept (s t : State) : Prop := s.exitCause ≠ .none → t.exitCause = s.exitCause

theorem CauseKept.of_eq (h : t.exitCause = s.exitCause) : CauseKept s t := fun _ => h

theorem CauseKept.refl (s : State) : CauseKept s s := .of_eq rfl

theorem CauseKept.trans (h : CauseKept s t) (k : CauseKept t u) : CauseKept s u := by
  intro hne
  have hst := h hne
  exact (k (hst ▸ hne)).trans hst

/-- `if EXIT_CAUSE = NONE` guards the recording of every cause. -/
theorem CauseKept.of_firstCause (cause : ExitCause) (h : t.exitCause = firstCause s.exitCause cause) :
    CauseKept s t := by
  intro hne
  rw [h, firstCause_eq, if_neg hne]

theorem halt_causeKept (cause : ExitCause) (s : State) : CauseKept s (halt cause s) := .of_firstCause cause rfl

theorem frameDone_causeKept (s : State) : CauseKept s (frameDone s) := by
  unfold frameDone
  split
  · exact halt_causeKept _ s
  · exact .of_eq rfl

/-! ### The receiver and the engine in RECEIVE -/

theorem overrun_causeKept (s : State) : CauseKept s (overrun s) := by
  rcases overrun_cases s with ⟨_, e⟩ | ⟨_, _, _, _, _, hcause, _⟩ | ⟨_, _, e⟩
  · rw [e]
    exact .refl s
  · exact .of_firstCause .rxOverrun hcause
  · rw [e]
    exact .of_firstCause .rxOverrun rfl

theorem enqueue_causeKept (item : RxItem) (s : State) : CauseKept s (enqueue item s) := by
  rcases enqueue_cases item s with ⟨_, e⟩ | ⟨_, _, e⟩ | ⟨_, _, e⟩ <;> rw [e]
  · exact .refl s
  · exact .of_eq rfl
  · exact overrun_causeKept s

theorem rxByte_causeKept (b : Byte) (s : State) : CauseKept s (rxByte b s) := by
  unfold rxByte
  split
  · exact .refl s
  · exact enqueue_causeKept _ s

theorem rxError_causeKept (e : ErrVal) (s : State) : CauseKept s (rxError e s) := by
  unfold rxError
  split
  · exact .refl s
  · exact .trans (t := { s with rxEnded := true }) (.of_eq rfl) (enqueue_causeKept _ _)

theorem countTick_exitCause (s : State) : (countTick s).exitCause = s.exitCause := by
  rcases countTick_cases s with ⟨_, e⟩ | ⟨_, _, e⟩ | ⟨_, _, e⟩ <;> simp [e]

theorem popErr_causeKept (e : ErrVal) (s : State) : CauseKept s (popErr e s) := by
  have hmark : CauseKept s { s with exitCause := firstCause s.exitCause (.readError e), final := true } :=
    .of_firstCause (.readError e) rfl
  rcases popErr_cases e s with ⟨_, he⟩ | ⟨_, he⟩ <;> rw [he]
  · exact hmark.trans (.of_eq rfl)
  · exact hmark.trans (halt_causeKept _ _)

theorem receiveStep_causeKept (s : State) : CauseKept s (receiveStep s) := by
  rcases receiveStep_cases s with ⟨b, rest, _, e⟩ | ⟨err, rest, _, e⟩ | ⟨_, _, e⟩ | ⟨n, _, _, e⟩ <;> rw [e]
  · exact .of_eq rfl
  · exact .trans (t := { s with rxFifo := rest }) (.of_eq rfl) (popErr_causeKept err _)
  · exact .refl s
  · exact .of_eq (countTick_exitCause { s with ticksHeld := n })

/-! ### Ticks, the transmitter and the event consumer -/

theorem settleTick_causeKept (s : State) : CauseKept s (settleTick s) := by
  rcases settleTick_cases s with ⟨_, e⟩ | ⟨_, e⟩ <;> rw [e]
  · exact .of_eq rfl
  · exact .trans (t := { s with settleUs := s.settleUs + 1 }) (.of_eq rfl) (frameDone_causeKept _)

theorem usTick_causeKept (s : State) : CauseKept s (usTick s) := by
  rcases usTick_cases s with ⟨_, _, _, e⟩ | ⟨_, _, e⟩ | ⟨_, e⟩ | ⟨_, _, e⟩ <;> rw [e]
  · exact .of_eq (countTick_exitCause s)
  · exact .of_eq rfl
  · exact settleTick_causeKept s
  · exact .refl s

theorem txAccept_causeKept (s : State) : CauseKept s (txAccept s) := by
  rcases txAccept_cases s with ⟨_, e⟩ | ⟨_, _, _, e⟩ | ⟨_, _, _, e⟩ <;> rw [e] <;> exact .of_eq rfl

theorem txError_causeKept (e : ErrVal) (s : State) : CauseKept s (txError e s) := by
  by_cases hs : s.frState = .transmit
  · rw [txError_of_transmit e hs]
    exact halt_causeKept _ s
  · rw [txError_of_ne e hs]
    exact .refl s

theorem cbTake_causeKept (ev : CbEvent) (s : State) : CauseKept s (cbTake ev s) := by
  unfold cbTake
  split <;> exact .of_eq rfl

/-! ### Frames in PROCESS and host requests -/

/-- No internal step records a cause (R310). -/
theorem process_causeKept (id func : Byte) (pf : Bool) {u : HandlerUnit} (hu : u.Keeps) (s : State) :
    CauseKept s (process id func pf u s) :=
  advance_keeps (CauseKept s) _
    (fun t _ h => h.trans (.of_eq (internalStep_coreKeeps id func pf hu t).exitCause)) _ s (.refl s)

/-- Every instruction answers a next state, and none records a cause over another. -/
theorem exec_causeKept (i : Instr) (s : State) : ∃ t, exec i s = .next t ∧ CauseKept s t := by
  rcases exec_cases i with ⟨id, func, u, hu, e⟩ | ⟨k, addr, e⟩ | ⟨k, addr, value, e⟩
  · exact ⟨_, e s, process_causeKept id func false hu s⟩
  · exact ⟨_, e s, .of_eq (hostGet_hostKeeps k addr s).exitCause⟩
  · exact ⟨_, e s, .of_eq (hostSet_hostKeeps k addr value s).exitCause⟩

theorem decodeStage_exitCause (s : State) : (decodeStage s).exitCause = s.exitCause := by
  rcases decodeStage_cases s with ⟨_, e⟩ | ⟨_, _, e⟩ | ⟨_, _, e⟩ | ⟨_, _, _, e⟩ <;> rw [e]

theorem runEngine_causeKept (q : Option Nat) (s : State) : ∃ t, runEngine q s = .next t ∧ CauseKept s t := by
  cases hs : s.frState with
  | process =>
    have hstage : CauseKept s (decodeStage (s.setQuantum q)) := .of_eq (decodeStage_exitCause (s.setQuantum q))
    rcases rejectedBytes_or_instr s.frame with hbytes | ⟨i, hi⟩
    · exact ⟨_, runEngine_rejected q hs hbytes, hstage.trans (process_causeKept _ _ true noUnit_keeps _)⟩
    · obtain ⟨t, e, ht⟩ := exec_causeKept i (decodeStage (s.setQuantum q))
      exact ⟨t, (runEngine_instr q hs hi).trans e, hstage.trans ht⟩
  | receive => exact ⟨_, runEngine_receive q hs, receiveStep_causeKept s⟩
  | transmit => exact ⟨s, by simp only [runEngine, engineTurn, hs], .refl s⟩
  | settle => exact ⟨s, by simp only [runEngine, engineTurn, hs], .refl s⟩
  | halted => exact ⟨s, runEngine_of_halted q hs, .refl s⟩

theorem runHost_causeKept (agent : Nat) (op : BitVec 3) (addr value : Word) (s : State) :
    ∃ t, runHost agent op addr value s = .next t ∧ CauseKept s t := by
  rcases runHost_cases agent op addr value s with ⟨_, e⟩ | ⟨_, e⟩ <;> rw [e]
  · exact exec_causeKept _ s
  · exact ⟨s, rfl, .refl s⟩

/-! ### Moves and steps -/

/-- Every move of a running block but the assertion of reset. -/
theorem runMove_causeKept (m : Move) (hm : m ≠ .resetAssert) (s : State) :
    ∃ t, runMove m s = .next t ∧ CauseKept s t := by
  cases m with
  | engine q => exact runEngine_causeKept q s
  | hostReq agent op addr value => exact runHost_causeKept agent op addr value s
  | rxByte b => exact ⟨_, rfl, rxByte_causeKept b s⟩
  | rxError e => exact ⟨_, rfl, rxError_causeKept e s⟩
  | usTick => exact ⟨_, rfl, usTick_causeKept s⟩
  | txAccept => exact ⟨_, rfl, txAccept_causeKept s⟩
  | txError e => exact ⟨_, rfl, txError_causeKept e s⟩
  | cbTake ev => exact ⟨_, rfl, cbTake_causeKept ev s⟩
  | resetAssert => exact absurd rfl hm
  | cfgWrite => exact ⟨s, rfl, .refl s⟩
  | resetRelease => exact ⟨s, rfl, .refl s⟩

theorem step_causeKept (hr : s.inReset = false) (hhead : s.sched.head? ≠ some .resetAssert) :
    ∃ t, step s = .next t ∧ CauseKept s t := by
  cases hq : s.sched with
  | nil =>
    rw [step_idle s hr hq]
    exact runEngine_causeKept none s
  | cons m rest =>
    have hm : m ≠ .resetAssert := fun h => hhead (by rw [hq, h]; rfl)
    obtain ⟨t, e, ht⟩ := runMove_causeKept m hm { s with sched := rest }
    exact ⟨t, (step_move s m rest hr hq).trans e, .trans (t := { s with sched := rest }) (.of_eq rfl) ht⟩

/-- Settles O43: move by move, every recording of a cause is guarded. -/
theorem firstFatalCauseIsKept : Obligations.FirstFatalCauseIsKept := by
  intro s t hcause hr hhead e
  obtain ⟨u, hu, hkept⟩ := step_causeKept hr hhead
  cases hu.symm.trans e
  exact hkept hcause

end Sys2Proof.Machine
end

section
/-! SUPPORT. Reset (70_reset_and_hazards.md): the obligations on the assertion and the release of reset, on what comes between, and on
the reset state. -/

namespace Sys2Proof.Machine

/-- Every cell reads 0 after reset (R341). -/
@[simp] theorem blockReset_cell (level : Bool) (s : State) (k : BankId) (a : Nat) : (blockReset level s).cell k a = 0 := by
  cases k <;> rfl

/-- Settles O45: the release puts the reset values. -/
theorem releaseLeavesResetValues : Obligations.ReleaseLeavesResetValues := by
  intro s rest hr hq
  refine ⟨blockReset false { s with sched := rest }, step_reset s _ rest hr hq, ?_⟩
  exact ⟨rfl, rfl, rfl, rfl, rfl, rfl, rfl, rfl, rfl, rfl, rfl, rfl, rfl, rfl, rfl, rfl, blockReset_cell _ _, rfl⟩

/-- Settles O46: a bank at a time. -/
theorem resetHasDefaultConfiguration : Obligations.ResetHasDefaultConfiguration := by
  refine ⟨rfl, fun k => ?_, rfl, fun k a => ?_⟩
  · cases k <;> rfl
  · cases k <;> rfl

/-- Under reset every move but the release and the platform's write is discarded (R340). -/
theorem moveInReset_discards {m : Move} (hrelease : m ≠ .resetRelease) (hwrite : ∀ c, m ≠ .cfgWrite c) (s : State) :
    moveInReset m s = .next s := by
  cases m with
  | cfgWrite c => exact absurd rfl (hwrite c)
  | resetRelease => exact absurd rfl hrelease
  | engine => rfl
  | rxByte => rfl
  | rxError => rfl
  | usTick => rfl
  | txAccept => rfl
  | txError => rfl
  | hostReq => rfl
  | cbTake => rfl
  | resetAssert => rfl

/-- Settles O47: the move is discarded. -/
theorem assertedResetStopsTheBlock : Obligations.AssertedResetStopsTheBlock := by
  intro s m rest hr hq hrelease hwrite
  rw [step_reset s m rest hr hq, moveInReset_discards hrelease hwrite]

/-- Settles O48: the assertion puts the reset values at once. -/
theorem resetDiscardsWorkInFlight : Obligations.ResetDiscardsWorkInFlight := by
  intro s rest hr hq
  refine ⟨blockReset true { s with sched := rest }, step_move s _ rest hr hq, ?_⟩
  exact ⟨rfl, rfl, rfl, rfl, rfl, txOffer_eq_none (by simp [State.reset]), rfl, blockReset_cell _ _, rfl, rfl⟩

/-- Settles O52: the reset state is a reset of itself, its configuration is legal, and no frame is in work. -/
theorem resetMeetsInvariant : Obligations.ResetMeetsInvariant :=
  ⟨blockReset_inv (s := State.reset) false rfl rfl, (unhandled_of_receive rfl).replyInv⟩

end Sys2Proof.Machine
end
